-- ==== Sys2Proof/Word.lean ====
section
/-! DEFINITION. The plain types of the machine's values (spec 00_scope.md R4, R6, R7): every value is an unsigned
integer of a stated width, bit 0 the least significant. -/

namespace Sys2Proof

/-- A byte of memory, a general register, a timer (R4 REG_WIDTH, TIMER_WIDTH). -/
abbrev Byte := BitVec 8

/-- A 16-bit value: an instruction word, `I`, `pc`, a stack entry (R4 I_WIDTH, PC_WIDTH, INSN_WIDTH). -/
abbrev Word := BitVec 16

/-- A 4-bit field of an instruction word (R71). -/
abbrev Nibble := BitVec 4

/-- The 12-bit address field NNN (R71). -/
abbrev Addr12 := BitVec 12

/-- The number of a general register (R4 NREG, R20). -/
abbrev RegIx := Fin 16

/-- The display buffer, `fb[y][x]` with 32 rows of 64 pixels (R4 DISP_W, DISP_H, R28). -/
abbrev Frame := Vector (Vector Bool 64) 32

end Sys2Proof
end

