-- ==== Sys2Proof/Config.lean ====
section
/-! DEFINITION. What the spec leaves to the implementation or to the outside, as constants with no body: the named
arguments of the model (00_scope.md R5, 92_eei_decisions.md D2, D6, D8), the random draws (42_alu.md R143) and the
order of events (40_cycle.md R90, 70_reset_and_hazards.md R249). Nothing in Lean can evaluate one of them, so a claim
about the machine holds whatever they are. -/

namespace Sys2Proof

/-- The events that make the machine change (R90). `press` and `release` are the host's key changes (R33). -/
inductive Event where
  /-- construction by the host -/
  | reset
  /-- program load by the host -/
  | load (image : List Byte)
  /-- one cycle of the interpreter -/
  | cycle
  /-- one step of the TimerDomain -/
  | tick
  /-- logical key `k` goes down -/
  | press (k : Nat)
  /-- logical key `k` goes up -/
  | release (k : Nat)
  deriving DecidableEq, Repr, Inhabited

/-- FONT_BASE, any value with FONT_BASE + 80 ≤ 0x200 (R5, D2; log 1). -/
opaque Config.fontBaseArg : Fin 433

/-- SUB_EQUAL_FLAG, 0 or 1 (R5, D8; log 2). -/
opaque Config.subEqualArg : Bool

/-- GROUP59_STRICT (R5, R77, D6; log 3). -/
opaque Config.group59StrictArg : Bool

/-- The byte of the `n`-th random draw, under no constraint (R143, D26; log 4). -/
opaque Config.drawByte : Nat → Byte

/-- The `n`-th event of the outside once `State.pending` is empty, under no constraint (R90, R249, D25; log 5). -/
opaque Config.event : Nat → Event

end Sys2Proof
end

