-- ==== Sys2Proof/Machine/Params.lean ====
section
/-! DEFINITION. The implementation parameters the machine uses (00_scope.md R4, R5), each behind one name. -/

namespace Sys2Proof.Machine

/-- The highest byte address (R4 MEM_SIZE). -/
def memTop : Nat := 0xFFF

/-- LOAD_OFFSET, where the program image is placed and execution starts (R5, R51, D1; log 14). -/
def loadOffset : Nat := 0x200

/-- FONT_BASE (R5, D2; log 1). -/
def fontBase : Nat := Config.fontBaseArg.val

/-- SUB_EQUAL_FLAG: the flag of SUB and SUBN on equal operands (R138, R140, D8; log 2). -/
def subEqualFlag : Byte := if Config.subEqualArg then 1 else 0

/-- GROUP59_STRICT: are `5XYN` and `9XYN` with N ≠ 0 NOPs (R77, D6; log 3). -/
def group59Strict : Bool := Config.group59StrictArg

end Sys2Proof.Machine
end

