-- ==== Sys2Proof/Syntax.lean ====
section
/-! DEFINITION. The instructions: one constructor per row of spec/opcode_table.json (30_encoding.md R81). A field the
row ignores is kept as an operand, so that no bit of a word is lost (log 16). -/

namespace Sys2Proof

inductive Instr where
  /-- 0XE0, CLS; bits 11:8 ignored -/
  | cls (ignored : Nibble)
  /-- 0XEE, RET; bits 11:8 ignored -/
  | ret (ignored : Nibble)
  /-- 1NNN, JP NNN -/
  | jp (nnn : Addr12)
  /-- 2NNN, CALL NNN -/
  | call (nnn : Addr12)
  /-- 3XNN, SE VX, NN -/
  | seImm (x : RegIx) (nn : Byte)
  /-- 4XNN, SNE VX, NN -/
  | sneImm (x : RegIx) (nn : Byte)
  /-- 5XY0, SE VX, VY; N is ignored when GROUP59_STRICT is false (R77) -/
  | seReg (x y : RegIx) (n : Nibble)
  /-- 6XNN, LD VX, NN -/
  | ldImm (x : RegIx) (nn : Byte)
  /-- 7XNN, ADD VX, NN -/
  | addImm (x : RegIx) (nn : Byte)
  /-- 8XY0, LD VX, VY -/
  | ldReg (x y : RegIx)
  /-- 8XY1, OR VX, VY -/
  | orReg (x y : RegIx)
  /-- 8XY2, AND VX, VY -/
  | andReg (x y : RegIx)
  /-- 8XY3, XOR VX, VY -/
  | xorReg (x y : RegIx)
  /-- 8XY4, ADD VX, VY -/
  | addReg (x y : RegIx)
  /-- 8XY5, SUB VX, VY -/
  | sub (x y : RegIx)
  /-- 8XY6, SHR VX; Y ignored -/
  | shr (x : RegIx) (ignored : Nibble)
  /-- 8XY7, SUBN VX, VY -/
  | subn (x y : RegIx)
  /-- 8XYE, SHL VX; Y ignored -/
  | shl (x : RegIx) (ignored : Nibble)
  /-- 9XY0, SNE VX, VY; N is ignored when GROUP59_STRICT is false (R77) -/
  | sneReg (x y : RegIx) (n : Nibble)
  /-- ANNN, LD I, NNN -/
  | ldI (nnn : Addr12)
  /-- BNNN, JP V0, NNN -/
  | jpV0 (nnn : Addr12)
  /-- CXNN, RND VX, NN -/
  | rnd (x : RegIx) (nn : Byte)
  /-- DXYN, DRW VX, VY, N -/
  | drw (x y : RegIx) (n : Nibble)
  /-- EX9E, SKP VX -/
  | skp (x : RegIx)
  /-- EXA1, SKNP VX -/
  | sknp (x : RegIx)
  /-- FX07, LD VX, DT -/
  | ldVxDt (x : RegIx)
  /-- FX0A, LD VX, K -/
  | ldVxK (x : RegIx)
  /-- FX15, LD DT, VX -/
  | ldDtVx (x : RegIx)
  /-- FX18, LD ST, VX -/
  | ldStVx (x : RegIx)
  /-- FX1E, ADD I, VX -/
  | addI (x : RegIx)
  /-- FX29, LD F, VX -/
  | ldF (x : RegIx)
  /-- FX33, LD B, VX -/
  | ldB (x : RegIx)
  /-- FX55, LD [I], VX -/
  | ldMemVx (x : RegIx)
  /-- FX65, LD VX, [I] -/
  | ldVxMem (x : RegIx)
  /-- any other word, NOP; the word itself is the operand (R79) -/
  | nop (word : Word)
  deriving DecidableEq, Repr

end Sys2Proof
end

