-- ==== Sys2Proof/Machine/OpcodeMap.lean ====
section
/-! DEFINITION. The opcode map of 30_encoding.md R81 as a list of rows, and which instruction stands for which row. -/

namespace Sys2Proof.Machine

/-- A row of the opcode map: `w` is the instruction iff `w & mask = value`. A row of groups 5 and 9 holds as well the
mask it has when GROUP59_STRICT is false (R77). -/
structure MapRow where
  mnemonic : String
  value : Word
  mask : Word
  looseMask : Option Word
  deriving DecidableEq, Repr

/-- A row with one mask. -/
def mapRow (mnemonic : String) (value mask : Word) : MapRow := ⟨mnemonic, value, mask, none⟩

/-- Groups 0 to 7 of R81. -/
def opcodeRowsLow : List MapRow :=
  [ mapRow "CLS" 0x00E0 0xF0FF,
    mapRow "RET" 0x00EE 0xF0FF,
    mapRow "JP_NNN" 0x1000 0xF000,
    mapRow "CALL_NNN" 0x2000 0xF000,
    mapRow "SE_VX__NN" 0x3000 0xF000,
    mapRow "SNE_VX__NN" 0x4000 0xF000,
    ⟨"SE_VX__VY", 0x5000, 0xF00F, some 0xF000⟩,
    mapRow "LD_VX__NN" 0x6000 0xF000,
    mapRow "ADD_VX__NN" 0x7000 0xF000 ]

/-- Group 8 of R81. -/
def opcodeRowsEight : List MapRow :=
  [ mapRow "LD_VX__VY" 0x8000 0xF00F,
    mapRow "OR_VX__VY" 0x8001 0xF00F,
    mapRow "AND_VX__VY" 0x8002 0xF00F,
    mapRow "XOR_VX__VY" 0x8003 0xF00F,
    mapRow "ADD_VX__VY" 0x8004 0xF00F,
    mapRow "SUB_VX__VY" 0x8005 0xF00F,
    mapRow "SHR_VX" 0x8006 0xF00F,
    mapRow "SUBN_VX__VY" 0x8007 0xF00F,
    mapRow "SHL_VX" 0x800E 0xF00F ]

/-- Groups 9 to F of R81. -/
def opcodeRowsHigh : List MapRow :=
  [ ⟨"SNE_VX__VY", 0x9000, 0xF00F, some 0xF000⟩,
    mapRow "LD_I__NNN" 0xA000 0xF000,
    mapRow "JP_V0__NNN" 0xB000 0xF000,
    mapRow "RND_VX__NN" 0xC000 0xF000,
    mapRow "DRW_VX__VY__N" 0xD000 0xF000,
    mapRow "SKP_VX" 0xE09E 0xF0FF,
    mapRow "SKNP_VX" 0xE0A1 0xF0FF,
    mapRow "LD_VX__DT" 0xF007 0xF0FF,
    mapRow "LD_VX__K" 0xF00A 0xF0FF,
    mapRow "LD_DT__VX" 0xF015 0xF0FF,
    mapRow "LD_ST__VX" 0xF018 0xF0FF,
    mapRow "ADD_I__VX" 0xF01E 0xF0FF,
    mapRow "LD_F__VX" 0xF029 0xF0FF,
    mapRow "LD_B__VX" 0xF033 0xF0FF,
    mapRow "LD__I___VX" 0xF055 0xF0FF,
    mapRow "LD_VX___I" 0xF065 0xF0FF ]

/-- The 34 patterns of R81. -/
def opcodeMap : List MapRow := opcodeRowsLow ++ opcodeRowsEight ++ opcodeRowsHigh

/-- Does the word match the row (R81; R77 for the loose mask). -/
def rowMatches (row : MapRow) (w : Word) : Bool :=
  w &&& row.mask == row.value ||
    row.looseMask.any fun m => w &&& m == row.value && !group59Strict

/-- A word that no row matches (R76). -/
def isNopWord (w : Word) : Bool := !opcodeMap.any fun row => rowMatches row w

/-- The mnemonic of spec/opcode_table.json for an instruction. -/
def mnemonicOf : Instr → String
  | .cls _ => "CLS"
  | .ret _ => "RET"
  | .jp _ => "JP_NNN"
  | .call _ => "CALL_NNN"
  | .seImm _ _ => "SE_VX__NN"
  | .sneImm _ _ => "SNE_VX__NN"
  | .seReg _ _ _ => "SE_VX__VY"
  | .ldImm _ _ => "LD_VX__NN"
  | .addImm _ _ => "ADD_VX__NN"
  | .ldReg _ _ => "LD_VX__VY"
  | .orReg _ _ => "OR_VX__VY"
  | .andReg _ _ => "AND_VX__VY"
  | .xorReg _ _ => "XOR_VX__VY"
  | .addReg _ _ => "ADD_VX__VY"
  | .sub _ _ => "SUB_VX__VY"
  | .shr _ _ => "SHR_VX"
  | .subn _ _ => "SUBN_VX__VY"
  | .shl _ _ => "SHL_VX"
  | .sneReg _ _ _ => "SNE_VX__VY"
  | .ldI _ => "LD_I__NNN"
  | .jpV0 _ => "JP_V0__NNN"
  | .rnd _ _ => "RND_VX__NN"
  | .drw _ _ _ => "DRW_VX__VY__N"
  | .skp _ => "SKP_VX"
  | .sknp _ => "SKNP_VX"
  | .ldVxDt _ => "LD_VX__DT"
  | .ldVxK _ => "LD_VX__K"
  | .ldDtVx _ => "LD_DT__VX"
  | .ldStVx _ => "LD_ST__VX"
  | .addI _ => "ADD_I__VX"
  | .ldF _ => "LD_F__VX"
  | .ldB _ => "LD_B__VX"
  | .ldMemVx _ => "LD__I___VX"
  | .ldVxMem _ => "LD_VX___I"
  | .nop _ => "NOP"

end Sys2Proof.Machine
end

