-- ==== Sys2Proof/WellFormed.lean ====
section
/-! DEFINITION. Which terms of Instr stand for a word of the machine. Operand widths are carried by the types; what is
left is N of groups 5 and 9 (30_encoding.md R77) and the words a NOP may carry (R76). -/

namespace Sys2Proof

open Sys2Proof.Machine

/-- N of `5XYN` and `9XYN`: 0, unless GROUP59_STRICT is false (R77). -/
def subKeyOk (n : Nibble) : Bool := n == 0 || !group59Strict

def Instr.wellFormed : Instr → Bool
  | .cls _ => true
  | .ret _ => true
  | .jp _ => true
  | .call _ => true
  | .seImm _ _ => true
  | .sneImm _ _ => true
  | .seReg _ _ n => subKeyOk n
  | .ldImm _ _ => true
  | .addImm _ _ => true
  | .ldReg _ _ => true
  | .orReg _ _ => true
  | .andReg _ _ => true
  | .xorReg _ _ => true
  | .addReg _ _ => true
  | .sub _ _ => true
  | .shr _ _ => true
  | .subn _ _ => true
  | .shl _ _ => true
  | .sneReg _ _ n => subKeyOk n
  | .ldI _ => true
  | .jpV0 _ => true
  | .rnd _ _ => true
  | .drw _ _ _ => true
  | .skp _ => true
  | .sknp _ => true
  | .ldVxDt _ => true
  | .ldVxK _ => true
  | .ldDtVx _ => true
  | .ldStVx _ => true
  | .addI _ => true
  | .ldF _ => true
  | .ldB _ => true
  | .ldMemVx _ => true
  | .ldVxMem _ => true
  | .nop w => isNopWord w

end Sys2Proof
end

