-- ==== Sys2Proof/Decode.lean ====
section
/-! DEFINITION. From bits to instructions and back (30_encoding.md R70 to R78, R81). -/

namespace Sys2Proof

open Sys2Proof.Machine

/-- Field G, bits 15:12 (R71). -/
def fieldG (op : Word) : Nibble := (op >>> 12).setWidth 4

/-- Field X, bits 11:8, the number of a register (R71). -/
def fieldX (op : Word) : RegIx := ((op >>> 8).setWidth 4).toFin

/-- Bits 11:8 as a field no instruction examines (R75, group 0). -/
def fieldX4 (op : Word) : Nibble := (op >>> 8).setWidth 4

/-- Field Y, bits 7:4, the number of a register (R71). -/
def fieldY (op : Word) : RegIx := ((op >>> 4).setWidth 4).toFin

/-- Bits 7:4 as a field the shifts ignore (R139, R141). -/
def fieldY4 (op : Word) : Nibble := (op >>> 4).setWidth 4

/-- Field N, bits 3:0 (R71). -/
def fieldN (op : Word) : Nibble := op.setWidth 4

/-- Field NN, bits 7:0 (R71). -/
def fieldNN (op : Word) : Byte := op.setWidth 8

/-- Field NNN, bits 11:0 (R71). -/
def fieldNNN (op : Word) : Addr12 := op.setWidth 12

/-- Group 0, keyed on NN (R75). -/
def decodeGroup0 (op : Word) : Instr :=
  match fieldNN op with
  | 0xE0#8 => .cls (fieldX4 op)
  | 0xEE#8 => .ret (fieldX4 op)
  | _ => .nop op

/-- Group 5 (R77). -/
def decodeGroup5 (op : Word) : Instr :=
  if subKeyOk (fieldN op) then .seReg (fieldX op) (fieldY op) (fieldN op) else .nop op

/-- Group 8, keyed on N (R75). -/
def decodeGroup8 (op : Word) : Instr :=
  match fieldN op with
  | 0x0#4 => .ldReg (fieldX op) (fieldY op)
  | 0x1#4 => .orReg (fieldX op) (fieldY op)
  | 0x2#4 => .andReg (fieldX op) (fieldY op)
  | 0x3#4 => .xorReg (fieldX op) (fieldY op)
  | 0x4#4 => .addReg (fieldX op) (fieldY op)
  | 0x5#4 => .sub (fieldX op) (fieldY op)
  | 0x6#4 => .shr (fieldX op) (fieldY4 op)
  | 0x7#4 => .subn (fieldX op) (fieldY op)
  | 0xE#4 => .shl (fieldX op) (fieldY4 op)
  | _ => .nop op

/-- Group 9 (R77). -/
def decodeGroup9 (op : Word) : Instr :=
  if subKeyOk (fieldN op) then .sneReg (fieldX op) (fieldY op) (fieldN op) else .nop op

/-- Group E, keyed on NN (R75). -/
def decodeGroupE (op : Word) : Instr :=
  match fieldNN op with
  | 0x9E#8 => .skp (fieldX op)
  | 0xA1#8 => .sknp (fieldX op)
  | _ => .nop op

/-- Group F, keyed on NN (R75). -/
def decodeGroupF (op : Word) : Instr :=
  match fieldNN op with
  | 0x07#8 => .ldVxDt (fieldX op)
  | 0x0A#8 => .ldVxK (fieldX op)
  | 0x15#8 => .ldDtVx (fieldX op)
  | 0x18#8 => .ldStVx (fieldX op)
  | 0x1E#8 => .addI (fieldX op)
  | 0x29#8 => .ldF (fieldX op)
  | 0x33#8 => .ldB (fieldX op)
  | 0x55#8 => .ldMemVx (fieldX op)
  | 0x65#8 => .ldVxMem (fieldX op)
  | _ => .nop op

/-- The decoder: a pure, total function of the word (R78), first level on the top nibble (R74). -/
def decode (op : Word) : Instr :=
  match fieldG op with
  | 0x0#4 => decodeGroup0 op
  | 0x1#4 => .jp (fieldNNN op)
  | 0x2#4 => .call (fieldNNN op)
  | 0x3#4 => .seImm (fieldX op) (fieldNN op)
  | 0x4#4 => .sneImm (fieldX op) (fieldNN op)
  | 0x5#4 => decodeGroup5 op
  | 0x6#4 => .ldImm (fieldX op) (fieldNN op)
  | 0x7#4 => .addImm (fieldX op) (fieldNN op)
  | 0x8#4 => decodeGroup8 op
  | 0x9#4 => decodeGroup9 op
  | 0xA#4 => .ldI (fieldNNN op)
  | 0xB#4 => .jpV0 (fieldNNN op)
  | 0xC#4 => .rnd (fieldX op) (fieldNN op)
  | 0xD#4 => .drw (fieldX op) (fieldY op) (fieldN op)
  | 0xE#4 => decodeGroupE op
  | _ => decodeGroupF op

/-- Why a sequence of bytes holds no instruction: it has fewer than the two bytes of a word (R70). Every word decodes
(R78), so there is no other reason. -/
inductive DecodeError where
  | fewerThanTwoBytes
  deriving DecidableEq, Repr

/-- The word of two bytes, the high byte at the lower address (R53). -/
def wordOfBytes (hi lo : Byte) : Word := hi.setWidth 16 <<< 8 ||| lo.setWidth 16

/-- The decoder on bytes in address order: the first instruction and the bytes after it. -/
def decodeBytes : List Byte → Except DecodeError (Instr × List Byte)
  | hi :: lo :: rest => .ok (decode (wordOfBytes hi lo), rest)
  | [_] => .error .fewerThanTwoBytes
  | [] => .error .fewerThanTwoBytes

/-- The two bytes of a word in address order (R53). -/
def bytesOfWord (w : Word) : List Byte := [(w >>> 8).setWidth 8, w.setWidth 8]

/-- The word a table row's bits stand for: `nbits` bits of `w`, every bit above them 0. -/
def tableWord (nbits w : Nat) : Word := BitVec.ofNat 16 (w % 2 ^ nbits)

def decodeTableWord (nbits w : Nat) : Option Instr :=
  match decodeBytes (bytesOfWord (tableWord nbits w)) with
  | .ok (i, _) => some i
  | .error _ => none

/-- A register number as a 4-bit field. -/
def regField (x : RegIx) : Nibble := BitVec.ofNat 4 x.val

/-- Format A of R72. -/
def formA (g : Nibble) (nnn : Addr12) : Word := g.setWidth 16 <<< 12 ||| nnn.setWidth 16

/-- Formats I, K and Z of R72. -/
def formI (g x : Nibble) (nn : Byte) : Word :=
  g.setWidth 16 <<< 12 ||| x.setWidth 16 <<< 8 ||| nn.setWidth 16

/-- Format R of R72. -/
def formR (g x y n : Nibble) : Word :=
  g.setWidth 16 <<< 12 ||| x.setWidth 16 <<< 8 ||| y.setWidth 16 <<< 4 ||| n.setWidth 16

/-- The word of an instruction, from the patterns of R81. -/
def encode : Instr → Word
  | .cls z => formI 0x0 z 0xE0
  | .ret z => formI 0x0 z 0xEE
  | .jp nnn => formA 0x1 nnn
  | .call nnn => formA 0x2 nnn
  | .seImm x nn => formI 0x3 (regField x) nn
  | .sneImm x nn => formI 0x4 (regField x) nn
  | .seReg x y n => formR 0x5 (regField x) (regField y) n
  | .ldImm x nn => formI 0x6 (regField x) nn
  | .addImm x nn => formI 0x7 (regField x) nn
  | .ldReg x y => formR 0x8 (regField x) (regField y) 0x0
  | .orReg x y => formR 0x8 (regField x) (regField y) 0x1
  | .andReg x y => formR 0x8 (regField x) (regField y) 0x2
  | .xorReg x y => formR 0x8 (regField x) (regField y) 0x3
  | .addReg x y => formR 0x8 (regField x) (regField y) 0x4
  | .sub x y => formR 0x8 (regField x) (regField y) 0x5
  | .shr x y => formR 0x8 (regField x) y 0x6
  | .subn x y => formR 0x8 (regField x) (regField y) 0x7
  | .shl x y => formR 0x8 (regField x) y 0xE
  | .sneReg x y n => formR 0x9 (regField x) (regField y) n
  | .ldI nnn => formA 0xA nnn
  | .jpV0 nnn => formA 0xB nnn
  | .rnd x nn => formI 0xC (regField x) nn
  | .drw x y n => formR 0xD (regField x) (regField y) n
  | .skp x => formI 0xE (regField x) 0x9E
  | .sknp x => formI 0xE (regField x) 0xA1
  | .ldVxDt x => formI 0xF (regField x) 0x07
  | .ldVxK x => formI 0xF (regField x) 0x0A
  | .ldDtVx x => formI 0xF (regField x) 0x15
  | .ldStVx x => formI 0xF (regField x) 0x18
  | .addI x => formI 0xF (regField x) 0x1E
  | .ldF x => formI 0xF (regField x) 0x29
  | .ldB x => formI 0xF (regField x) 0x33
  | .ldMemVx x => formI 0xF (regField x) 0x55
  | .ldVxMem x => formI 0xF (regField x) 0x65
  | .nop w => w

end Sys2Proof
end

