-- ==== Sys2Proof/Machine/State.lean ====
section
/-! DEFINITION. The state of the machine as plain data (10_state.md), its outcomes and its reset state (R36). -/

namespace Sys2Proof.Machine

/-- The run state (R30, R94). -/
inductive Mode where
  | idle
  | running
  | waiting
  | halted
  deriving DecidableEq, Repr

/-- The fault cause register (R31, R210). -/
inductive FaultCause where
  | none
  | fetchOob
  | stackOverflow
  | stackUnderflow
  | dataOob
  deriving DecidableEq, Repr

/-- What the latest step signalled to the host besides the state (R37 (2), (5); log 9). -/
inductive Signal where
  /-- neither of the signals below -/
  | quiet
  /-- the update strobe, raised at the end of a cycle -/
  | update
  /-- LOAD succeeded -/
  | loadOk
  /-- LoadError: the image is too long (R219, R242) -/
  | loadError
  deriving DecidableEq, Repr

/-- Memory: the bytes that differ from the reset contents, as (address, byte) pairs, addresses strictly rising. What
an unlisted address reads as is `Memory.initial` (log 12). -/
abbrev Memory := List Host.Cell

structure State where
  /-- general registers; `V[15]` is VF (R20, R21) -/
  V : Vector Byte 16
  /-- index register (R22) -/
  I : Word
  /-- program counter (R23) -/
  pc : Word
  /-- call stack entries (R24) -/
  stack : Vector Word 16
  /-- number of occupied stack entries, 0 to 16 (R25) -/
  sp : Fin 17
  /-- delay timer (R26) -/
  DT : Byte
  /-- sound timer (R27) -/
  ST : Byte
  /-- display buffer, `fb[y][x]` (R28) -/
  fb : Frame
  /-- memory (R29) -/
  mem : Memory
  /-- run state (R30) -/
  mode : Mode
  /-- cause of the halt (R31) -/
  faultCause : FaultCause
  /-- X of the blocked LD VX, K (R32) -/
  waitX : RegIx
  /-- the key level the host drives now, an input (R33; log 6) -/
  keys : BitVec 16
  /-- outputs of the latest step (R37; log 9) -/
  signal : Signal
  /-- the model's own: random draws taken so far (R143; log 4) -/
  draws : Nat
  /-- the model's own: events still to come, oldest first (R90, R249; log 5) -/
  pending : List Event
  /-- the model's own: events taken from the free schedule so far (log 5) -/
  events : Nat
  deriving DecidableEq, Repr

/-- Reasons a step stops for good. There is none: every fault the spec names (R210) is taken as its R215 says, which is
a next state in mode HALTED, from which ticks and RESET go on (log 11). -/
inductive Fault where
  deriving DecidableEq, Repr

inductive Refusal where
  /-- Raised by an arm of `exec` for an instruction without a meaning; safe. No arm raises it. -/
  | notModelled (mnemonic : String)
  /-- Raised by a LOAD event in a mode other than IDLE, which 70_reset_and_hazards.md R242 (D28) does not define; safe. -/
  | loadNotIdle
  deriving DecidableEq, Repr

/-- What a meaning answers. -/
abbrev Result := Host.Outcome State Fault Refusal

/-- The machine after RESET (R36, R240). The last five fields are not state of the core: no key pressed, nothing
signalled, no draw taken, no event placed (logs 4, 5, 6, 9). -/
def State.reset : State where
  V := Vector.replicate 16 0
  I := 0
  pc := 0
  stack := Vector.replicate 16 0
  sp := 0
  DT := 0
  ST := 0
  fb := Vector.replicate 32 (Vector.replicate 64 false)
  mem := []
  mode := .idle
  faultCause := .none
  waitX := 0
  keys := 0
  signal := .quiet
  draws := 0
  pending := []
  events := 0

end Sys2Proof.Machine
end

