-- ==== Sys2Proof/Machine/Ops.lean ====
section
/-! DEFINITION. The named operations over registers, memory, stack and mode (00_scope.md R8), raising a fault among
them (60_exceptions.md R215). There is no return from a fault (R216); RESET is in Machine/Events.lean. -/

namespace Sys2Proof.Machine

/-! ### Registers -/

/-- `V[x]` (R8). -/
def State.reg (s : State) (x : RegIx) : Byte := s.V[x]

/-- `V[x] <- b` (R8). -/
def State.setReg (s : State) (x : RegIx) (b : Byte) : State := { s with V := s.V.set x b }

/-- The number of the flag register VF (R21). -/
def flagIx : RegIx := 15

/-- `V[15] <- b`, then `V[x] <- r`: the flag first, the result second (42_alu.md R130, D10). -/
def State.setFlagThenReg (s : State) (x : RegIx) (flag result : Byte) : State :=
  (s.setReg flagIx flag).setReg x result

def State.setI (s : State) (w : Word) : State := { s with I := w }

def State.setPc (s : State) (w : Word) : State := { s with pc := w }

def State.setDT (s : State) (b : Byte) : State := { s with DT := b }

def State.setST (s : State) (b : Byte) : State := { s with ST := b }

def State.setFb (s : State) (f : Frame) : State := { s with fb := f }

def State.setMem (s : State) (m : Memory) : State := { s with mem := m }

def State.setSignal (s : State) (g : Signal) : State := { s with signal := g }

/-- A taken skip: `pc <- pc + 2` (R113). -/
def State.skipIf (s : State) (taken : Bool) : State := if taken then s.setPc (s.pc + 2) else s

/-- `sound_on = (ST != 0)` (R27, R224). -/
def State.soundOn (s : State) : Bool := s.ST != 0

/-! ### Faults -/

/-- The code of a cause (R210). -/
def faultCode : FaultCause → Nat
  | .none => 0
  | .fetchOob => 1
  | .stackOverflow => 2
  | .stackUnderflow => 3
  | .dataOob => 4

/-- `raise Fault(c)` (R8, R215): nothing but the cause and the mode changes. -/
def State.raiseFault (s : State) (c : FaultCause) : State := { s with faultCause := c, mode := .halted }

/-- Entering WAITING for register `x` (45_keypad_timers.md R193). -/
def State.enterWaiting (s : State) (x : RegIx) : State := { s with waitX := x, mode := .waiting }

/-! ### Call stack -/

/-- `Push(v)` where it does not fault: `stack[sp] <- v; sp <- sp + 1`; none when sixteen entries are occupied (R8, R25). -/
def State.push (s : State) (v : Word) : Option State :=
  if h : s.sp.val < 16 then
    some { s with stack := s.stack.set s.sp.val v, sp := ⟨s.sp.val + 1, by omega⟩ }
  else none

/-- `Pop()` where it does not fault: `sp <- sp - 1`, the result `stack[sp]`; none when the stack is empty (R8, R25). -/
def State.pop (s : State) : Option (Word × State) :=
  if h : 0 < s.sp.val then
    some (s.stack[s.sp.val - 1], { s with sp := ⟨s.sp.val - 1, by omega⟩ })
  else none

/-! ### Memory -/

/-- FONT_TABLE, glyphs 0 to 7 (20_memory.md R52, D3; log 14). -/
def fontLow : List Byte :=
  [0xF0, 0x90, 0x90, 0x90, 0xF0] ++ [0x20, 0x60, 0x20, 0x20, 0x70] ++ [0xF0, 0x10, 0xF0, 0x80, 0xF0] ++
  [0xF0, 0x10, 0xF0, 0x10, 0xF0] ++ [0x90, 0x90, 0xF0, 0x10, 0x10] ++ [0xF0, 0x80, 0xF0, 0x10, 0xF0] ++
  [0xF0, 0x80, 0xF0, 0x90, 0xF0] ++ [0xF0, 0x10, 0x20, 0x40, 0x40]

/-- FONT_TABLE, glyphs 8 to F (R52, D3; log 14). -/
def fontHigh : List Byte :=
  [0xF0, 0x90, 0xF0, 0x90, 0xF0] ++ [0xF0, 0x90, 0xF0, 0x10, 0xF0] ++ [0xF0, 0x90, 0xF0, 0x90, 0x90] ++
  [0xE0, 0x90, 0xE0, 0x90, 0xE0] ++ [0xF0, 0x80, 0x80, 0x80, 0xF0] ++ [0xE0, 0x90, 0x90, 0x90, 0xE0] ++
  [0xF0, 0x80, 0xF0, 0x80, 0xF0] ++ [0xF0, 0x80, 0xF0, 0x80, 0x80]

/-- FONT_TABLE, 80 bytes (R52). -/
def fontTable : List Byte := fontLow ++ fontHigh

/-- What an unlisted address reads as: the reset contents, the font at FONT_BASE and zero elsewhere (R36, R51). The font
lies below LOAD_OFFSET (R5), so nothing at or above it depends on FONT_BASE. -/
def Memory.initial (a : Nat) : Byte :=
  if a < loadOffset ∧ fontBase ≤ a ∧ a < fontBase + 80 then fontTable.getD (a - fontBase) 0 else 0

/-- The byte at an address. -/
def Memory.read : Memory → Nat → Byte
  | [], a => Memory.initial a
  | (a', b) :: m, a => if a = a' then b else Memory.read m a

/-- Store a byte, keeping the list in canonical form. -/
def Memory.write : Memory → Nat → Byte → Memory
  | [], a, b => if b = Memory.initial a then [] else [(a, b)]
  | (a', b') :: m, a, b =>
    if a < a' then (if b = Memory.initial a then (a', b') :: m else (a, b) :: (a', b') :: m)
    else if a = a' then (if b = Memory.initial a then m else (a, b) :: m)
    else (a', b') :: Memory.write m a b

/-- The canonical form from address `lo` on: addresses strictly rising, in 0x000 to 0xFFF (R29), no entry equal to the
reset contents. -/
def Memory.wfFrom : Nat → Memory → Bool
  | _, [] => true
  | lo, (a, b) :: m => decide (lo ≤ a) && decide (a ≤ memTop) && b != Memory.initial a && Memory.wfFrom (a + 1) m

/-- The canonical form of memory. -/
def Memory.wf (m : Memory) : Bool := Memory.wfFrom 0 m

/-- Store bytes at ascending addresses (R54). -/
def Memory.writeBytes (m : Memory) (a : Nat) : List Byte → Memory
  | [] => m
  | b :: bs => Memory.writeBytes (Memory.write m a b) (a + 1) bs

/-- The `n` bytes at ascending addresses (R54). -/
def Memory.readBytes (m : Memory) (a n : Nat) : List Byte := (List.range n).map fun k => Memory.read m (a + k)

/-- `Fetch(a)`, big-endian; none where it faults, `a > 0xFFE` (R53, R57, D17). -/
def Memory.fetch (m : Memory) (a : Word) : Option Word :=
  if a.toNat + 1 ≤ memTop then some (wordOfBytes (Memory.read m a.toNat) (Memory.read m (a.toNat + 1))) else none

/-! ### Placing an instruction -/

/-- The state in which the next step fetches `w`: a cycle is the next event, the mode is RUNNING, and `w` stands at
`pc`; where there is no program yet (IDLE) or nothing can be fetched at `pc`, `pc` is first set as LOAD sets it
(R242; log 13). -/
def State.placeWord (s : State) (w : Word) : State :=
  let pc := if s.mode = .idle ∨ memTop < s.pc.toNat + 1 then BitVec.ofNat 16 loadOffset else s.pc
  { s with
    pc := pc
    mode := .running
    faultCause := .none
    mem := Memory.writeBytes s.mem pc.toNat (bytesOfWord w)
    pending := .cycle :: s.pending }

end Sys2Proof.Machine
end

