-- ==== Sys2Proof/Machine/Operands.lean ====
section
/-! DEFINITION. The operand forms (30_encoding.md R73): addresses, data ranges, key queries, decimal digits, sprite
bits. -/

namespace Sys2Proof.Machine

/-- `zext_16(NNN)`. -/
def zextAddr (nnn : Addr12) : Word := nnn.setWidth 16

/-- `zext_16(V[X])`. -/
def zextByte (b : Byte) : Word := b.setWidth 16

/-- The effective address of the first byte of a data access, an unbounded natural number (R56, D16). -/
def State.dataAddr (s : State) : Nat := s.I.toNat

/-- Are the `n` bytes at `I` in range: none when `n` is 0, else `I + n - 1 ≤ 0xFFF` (R56). -/
def State.dataOk (s : State) (n : Nat) : Bool := n == 0 || decide (s.dataAddr + (n - 1) ≤ memTop)

/-- `FONT_BASE + 5 * v`, not masked (43_index_memory.md R162, D14). -/
def glyphAddr (v : Byte) : Word := BitVec.ofNat 16 (fontBase + 5 * v.toNat)

/-- `KeyDown(k)` of an 8-bit `k` (R8, R190, D23). -/
def keyDown (keys : BitVec 16) (k : Byte) : Bool := decide (k.toNat ≤ 15) && keys.getLsbD k.toNat

/-- The pressed key of least number, none when no key is pressed: `AnyKey()` and `LowestKey()` (R8). -/
def lowestKey (keys : BitVec 16) : Option Nat := (List.range 16).find? fun k => keys.getLsbD k

/-- Hundreds, tens and ones of a byte (R163). -/
def bcdDigits (v : Byte) : List Byte :=
  [BitVec.ofNat 8 (v.toNat / 100), BitVec.ofNat 8 (v.toNat / 10 % 10), BitVec.ofNat 8 (v.toNat % 10)]

/-- `V[0]` to `V[x]`, x included (R164). -/
def State.regsUpTo (s : State) (x : RegIx) : List Byte := s.V.toList.take (x.val + 1)

/-- `V[k] <- mem[base + k]` for `k = 0..x` (R165). -/
def State.loadRegs (s : State) (base : Nat) (x : RegIx) : State :=
  { s with V := Vector.ofFn fun k => if k ≤ x then Memory.read s.mem (base + k.val) else s.reg k }

/-- The bit of a sprite byte in column `c`, bit 7 leftmost (R182, D21). -/
def spriteBit (b : Byte) (c : Nat) : Bool := b.getLsbD (7 - c)

/-- The byte of the next random draw (R143; log 4). -/
def State.drawn (s : State) : Byte := Config.drawByte s.draws

/-- One random draw taken. -/
def State.countDraw (s : State) : State := { s with draws := s.draws + 1 }

end Sys2Proof.Machine
end

