-- ==== Sys2Proof/Machine/Flags.lean ====
section
/-! DEFINITION. The values VF gets (10_state.md R21). -/

namespace Sys2Proof.Machine

def flagOf (c : Bool) : Byte := if c then 1 else 0

/-- ADD VX, VY: 1 iff the unsigned sum exceeds 255 (R137). -/
def carryFlag (a b : Byte) : Byte := flagOf (decide (255 < a.toNat + b.toNat))

/-- SUB, SUBN with minuend `a`: 1 iff `a > b`, SUB_EQUAL_FLAG when equal (R138, R140). -/
def noBorrowFlag (a b : Byte) : Byte :=
  if b.toNat < a.toNat then 1 else if a = b then subEqualFlag else 0

/-- SHR: bit 0 before the shift (R139). -/
def shiftedOutLow (a : Byte) : Byte := flagOf (a.getLsbD 0)

/-- SHL: bit 7 before the shift (R141). -/
def shiftedOutHigh (a : Byte) : Byte := flagOf (a.getLsbD 7)

/-- DRW: 1 iff a pixel went from on to off (R182). -/
def collisionFlag (hit : Bool) : Byte := flagOf hit

end Sys2Proof.Machine
end

