-- ==== Sys2Proof/Machine/Alu.lean ====
section
/-! DEFINITION. Register load, arithmetic, logic, shift, random (42_alu.md). Operands are read from the state before;
VF is written first, `V[X]` second (R130). -/

namespace Sys2Proof.Machine

/-- R131. -/
def execLdImm (x : RegIx) (nn : Byte) (s : State) : Result := .next (s.setReg x nn)

/-- R132: modulo 256, no flag. -/
def execAddImm (x : RegIx) (nn : Byte) (s : State) : Result := .next (s.setReg x (s.reg x + nn))

/-- R133. -/
def execLdReg (x y : RegIx) (s : State) : Result := .next (s.setReg x (s.reg y))

/-- R134: VF unchanged (D11). -/
def execOrReg (x y : RegIx) (s : State) : Result := .next (s.setReg x (s.reg x ||| s.reg y))

/-- R135. -/
def execAndReg (x y : RegIx) (s : State) : Result := .next (s.setReg x (s.reg x &&& s.reg y))

/-- R136. -/
def execXorReg (x y : RegIx) (s : State) : Result := .next (s.setReg x (s.reg x ^^^ s.reg y))

/-- R137. -/
def execAddReg (x y : RegIx) (s : State) : Result :=
  .next (s.setFlagThenReg x (carryFlag (s.reg x) (s.reg y)) (s.reg x + s.reg y))

/-- R138. -/
def execSub (x y : RegIx) (s : State) : Result :=
  .next (s.setFlagThenReg x (noBorrowFlag (s.reg x) (s.reg y)) (s.reg x - s.reg y))

/-- R139: Y ignored (D9). -/
def execShr (x : RegIx) (_ignored : Nibble) (s : State) : Result :=
  .next (s.setFlagThenReg x (shiftedOutLow (s.reg x)) (s.reg x >>> 1))

/-- R140. -/
def execSubn (x y : RegIx) (s : State) : Result :=
  .next (s.setFlagThenReg x (noBorrowFlag (s.reg y) (s.reg x)) (s.reg y - s.reg x))

/-- R141: Y ignored (D9). -/
def execShl (x : RegIx) (_ignored : Nibble) (s : State) : Result :=
  .next (s.setFlagThenReg x (shiftedOutHigh (s.reg x)) (s.reg x <<< 1))

/-- R143: a fresh draw at each execution. -/
def execRnd (x : RegIx) (nn : Byte) (s : State) : Result :=
  .next (s.countDraw.setReg x (s.drawn &&& nn))

end Sys2Proof.Machine
end

