-- ==== Sys2Proof/Machine/Control.lean ====
section
/-! DEFINITION. Control transfer and NOP (41_control_flow.md, 40_cycle.md R95). `pc` is already the address of the
following instruction (R91). -/

namespace Sys2Proof.Machine

/-- R110. -/
def execJp (nnn : Addr12) (s : State) : Result := .next (s.setPc (zextAddr nnn))

/-- R111. -/
def execCall (nnn : Addr12) (s : State) : Result :=
  match s.push s.pc with
  | some t => .next (t.setPc (zextAddr nnn))
  | none => .next (s.raiseFault .stackOverflow)

/-- R112; bits 11:8 take no part. -/
def execRet (_ignored : Nibble) (s : State) : Result :=
  match s.pop with
  | some (target, t) => .next (t.setPc target)
  | none => .next (s.raiseFault .stackUnderflow)

/-- R113. -/
def execSeImm (x : RegIx) (nn : Byte) (s : State) : Result := .next (s.skipIf (s.reg x == nn))

/-- R114. -/
def execSneImm (x : RegIx) (nn : Byte) (s : State) : Result := .next (s.skipIf (s.reg x != nn))

/-- R115; N takes no part. -/
def execSeReg (x y : RegIx) (_n : Nibble) (s : State) : Result := .next (s.skipIf (s.reg x == s.reg y))

/-- R116; N takes no part. -/
def execSneReg (x y : RegIx) (_n : Nibble) (s : State) : Result := .next (s.skipIf (s.reg x != s.reg y))

/-- R117: not reduced modulo 4096 (D31). -/
def execJpV0 (nnn : Addr12) (s : State) : Result := .next (s.setPc (zextByte (s.reg 0) + zextAddr nnn))

/-- R95. -/
def execNop (_word : Word) (s : State) : Result := .next s

end Sys2Proof.Machine
end

