-- ==== Sys2Proof/Machine/Display.lean ====
section
/-! DEFINITION. Display instructions (44_display.md). -/

namespace Sys2Proof.Machine

/-- `fb[y][x]`. -/
def pixel (f : Frame) (x : Fin 64) (y : Fin 32) : Bool := f[y][x]

/-- `fb[y][x] <- b`. -/
def setPixel (f : Frame) (x : Fin 64) (y : Fin 32) (b : Bool) : Frame := f.set y (f[y].set x b)

/-- All pixels off (R181). -/
def blankFrame : Frame := Vector.replicate 32 (Vector.replicate 64 false)

/-- One pixel of a draw: XOR, with the collision collected (R182). -/
def drawPixel (acc : Frame × Bool) (x : Fin 64) (y : Fin 32) (bit : Bool) : Frame × Bool :=
  (setPixel acc.1 x y (pixel acc.1 x y ^^ bit), acc.2 || (pixel acc.1 x y && bit))

/-- The column of the sprite's column `c`: `(x0 + c) mod 64` (R182, D22). -/
def columnAt (x0 c : Nat) : Fin 64 := Fin.ofNat 64 (x0 + c)

/-- The row of the sprite's row `r`: `(y0 + r) mod 32` (R182, D22). -/
def rowAt (y0 r : Nat) : Fin 32 := Fin.ofNat 32 (y0 + r)

/-- One row of a sprite, columns 0 to 7 (R182). -/
def drawRow (acc : Frame × Bool) (x0 : Nat) (y : Fin 32) (b : Byte) : Frame × Bool :=
  (List.range 8).foldl (fun acc c => drawPixel acc (columnAt x0 c) y (spriteBit b c)) acc

/-- The rows of a sprite from row `r` on (R182). -/
def drawRows (x0 y0 : Nat) : Nat → List Byte → Frame × Bool → Frame × Bool
  | _, [], acc => acc
  | r, b :: bs, acc => drawRows x0 y0 (r + 1) bs (drawRow acc x0 (rowAt y0 r) b)

/-- `drawSprite(x, y, rows)`: the new buffer and whether a collision occurred (R180, R182). -/
def drawSprite (f : Frame) (x0 y0 : Nat) (rows : List Byte) : Frame × Bool := drawRows x0 y0 0 rows (f, false)

/-- R181; bits 11:8 take no part. -/
def execCls (_ignored : Nibble) (s : State) : Result := .next (s.setFb blankFrame)

/-- R182: the coordinates are read before VF is written. -/
def execDrw (x y : RegIx) (n : Nibble) (s : State) : Result :=
  if s.dataOk n.toNat then
    let r := drawSprite s.fb (s.reg x).toNat (s.reg y).toNat (Memory.readBytes s.mem s.dataAddr n.toNat)
    .next ((s.setFb r.1).setReg flagIx (collisionFlag r.2))
  else .next (s.raiseFault .dataOob)

end Sys2Proof.Machine
end

