-- ==== Sys2Proof/Machine/IndexMemory.lean ====
section
/-! DEFINITION. Index register and memory instructions (43_index_memory.md). The whole data range is checked before
anything is written (20_memory.md R56). -/

namespace Sys2Proof.Machine

/-- R160. -/
def execLdI (nnn : Addr12) (s : State) : Result := .next (s.setI (zextAddr nnn))

/-- R161: modulo 65536, no flag (D13). -/
def execAddI (x : RegIx) (s : State) : Result := .next (s.setI (s.I + zextByte (s.reg x)))

/-- R162. -/
def execLdF (x : RegIx) (s : State) : Result := .next (s.setI (glyphAddr (s.reg x)))

/-- R163. -/
def execLdB (x : RegIx) (s : State) : Result :=
  if s.dataOk 3 then .next (s.setMem (Memory.writeBytes s.mem s.dataAddr (bcdDigits (s.reg x))))
  else .next (s.raiseFault .dataOob)

/-- R164: `I` unchanged (D12). -/
def execLdMemVx (x : RegIx) (s : State) : Result :=
  if s.dataOk (x.val + 1) then .next (s.setMem (Memory.writeBytes s.mem s.dataAddr (s.regsUpTo x)))
  else .next (s.raiseFault .dataOob)

/-- R165: `I` unchanged (D12). -/
def execLdVxMem (x : RegIx) (s : State) : Result :=
  if s.dataOk (x.val + 1) then .next (s.loadRegs s.dataAddr x)
  else .next (s.raiseFault .dataOob)

end Sys2Proof.Machine
end

