-- ==== Sys2Proof/Machine/KeypadTimers.lean ====
section
/-! DEFINITION. Keypad and timer instructions (45_keypad_timers.md). The key sample of the cycle is `keys`, which no
step changes within a cycle (R190; logs 6, 15). -/

namespace Sys2Proof.Machine

/-- R191. -/
def execSkp (x : RegIx) (s : State) : Result := .next (s.skipIf (keyDown s.keys (s.reg x)))

/-- R192. -/
def execSknp (x : RegIx) (s : State) : Result := .next (s.skipIf (!keyDown s.keys (s.reg x)))

/-- R193. -/
def execLdVxK (x : RegIx) (s : State) : Result :=
  match lowestKey s.keys with
  | some k => .next (s.setReg x (BitVec.ofNat 8 k))
  | none => .next (s.enterWaiting x)

/-- R194. -/
def execLdVxDt (x : RegIx) (s : State) : Result := .next (s.setReg x s.DT)

/-- R195. -/
def execLdDtVx (x : RegIx) (s : State) : Result := .next (s.setDT (s.reg x))

/-- R196. -/
def execLdStVx (x : RegIx) (s : State) : Result := .next (s.setST (s.reg x))

end Sys2Proof.Machine
end

