-- ==== Sys2Proof/Machine/Events.lean ====
section
/-! DEFINITION. The events of 40_cycle.md R90: RESET (70_reset_and_hazards.md R240, R241), LOAD (R242), the cycle
(R91, R92, R93), the tick (60_exceptions.md R222) and key changes (10_state.md R33), each one atomic step. -/

namespace Sys2Proof.Machine

/-- RESET: every piece of state at its reset value (R240); the key input and what lies outside the core stay (R241). -/
def State.onReset (s : State) : State :=
  { State.reset with keys := s.keys, draws := s.draws, pending := s.pending, events := s.events }

/-- The largest program image (R242). -/
def maxImage : Nat := memTop + 1 - loadOffset

/-- LOAD of an image in mode IDLE (R242): LoadError changes nothing, otherwise the image is copied and the machine runs. -/
def State.onLoadIdle (s : State) (image : List Byte) : State :=
  if maxImage < image.length then s.setSignal .loadError
  else
    { s with
      mem := Memory.writeBytes s.mem loadOffset image
      pc := BitVec.ofNat 16 loadOffset
      mode := .running
      signal := .loadOk }

/-- LOAD; outside IDLE it is not defined (R242, D28; log 10). -/
def State.onLoad (s : State) (image : List Byte) : Result :=
  if s.mode = .idle then .next (s.onLoadIdle image) else .refused .loadNotIdle

/-- A timer's decrement, not below 0 (R222). -/
def decTimer (b : Byte) : Byte := if b = 0 then 0 else b - 1

/-- The tick (R222). -/
def State.onTick (s : State) : State := { s with DT := decTimer s.DT, ST := decTimer s.ST }

/-- The key vector with key `k` at a level; an unrecognized identifier is a no-op (R33). -/
def setKey (keys : BitVec 16) (k : Nat) (down : Bool) : BitVec 16 :=
  if k ≤ 15 then (if down then keys ||| BitVec.twoPow 16 k else keys &&& ~~~(BitVec.twoPow 16 k)) else keys

/-- A key change (R33). -/
def State.onKey (s : State) (k : Nat) (down : Bool) : State := { s with keys := setKey s.keys k down }

/-- The end of a cycle: the update strobe (R37, R91), in a cycle that faulted too (log 8). -/
def endCycle : Result → Result
  | .next t => .next (t.setSignal .update)
  | .fault r => .fault r
  | .refused r => .refused r

/-- A cycle in RUNNING (R91): fetch, advance, decode, execute. -/
def State.runCycle (s : State) : Result :=
  match Memory.fetch s.mem s.pc with
  | some op => exec (decode op) (s.setPc (s.pc + 2))
  | none => .next (s.raiseFault .fetchOob)

/-- A cycle in WAITING (R92): no fetch. -/
def State.pollCycle (s : State) : State :=
  match lowestKey s.keys with
  | some k => { s.setReg s.waitX (BitVec.ofNat 8 k) with mode := .running }
  | none => s

/-- The cycle event in each mode (R90, R93). -/
def State.onCycle (s : State) : Result :=
  match s.mode with
  | .idle => .next s
  | .running => endCycle s.runCycle
  | .waiting => endCycle (.next s.pollCycle)
  | .halted => .next s

/-- The event that comes next: the oldest pending one, or one of the free schedule (log 5). -/
def State.nextEvent (s : State) : Event :=
  match s.pending with
  | [] => Config.event s.events
  | e :: _ => e

/-- The state with that event taken and nothing signalled yet (log 9). -/
def State.takeEvent (s : State) : State :=
  match s.pending with
  | [] => { s with events := s.events + 1, signal := .quiet }
  | _ :: rest => { s with pending := rest, signal := .quiet }

/-- One event, one atomic step (R90). -/
def State.onEvent (s : State) : Event → Result
  | .reset => .next s.onReset
  | .load image => s.onLoad image
  | .cycle => s.onCycle
  | .tick => .next s.onTick
  | .press k => .next (s.onKey k true)
  | .release k => .next (s.onKey k false)

end Sys2Proof.Machine
end

