-- ==== Sys2Proof/Machine/Step.lean ====
section
/-! DEFINITION. One step: the next event of the machine's outside or of one of its agents (00_scope.md R9). -/

namespace Sys2Proof.Machine

def step (s : State) : Host.Outcome State Fault Refusal := s.takeEvent.onEvent s.nextEvent

/-- `s` with an instruction stored where the next step fetches, and a cycle as the next event (log 13). -/
def State.withFetchWord (s : State) (nbits w : Nat) : State := s.placeWord (tableWord nbits w)

end Sys2Proof.Machine
end

