-- ==== Sys2Proof/Safety.lean ====
section
/-! DEFINITION. What counts as a safe run, and the invariant of the machine. -/

namespace Sys2Proof.Machine

/-- A state a run may be in without an error: HALTED is never a normal end (40_cycle.md R97). -/
def State.notHalted (s : State) : Bool := s.mode != .halted

/-- A run of `k` steps that the machine goes through without reaching HALTED and without a refused event. -/
def SafeRun : Nat → State → Prop
  | 0, s => s.notHalted = true
  | k + 1, s => s.notHalted = true ∧ ∃ t, step s = .next t ∧ SafeRun k t

/-- What the spec says of every state of the machine between steps. -/
structure State.Inv (s : State) : Prop where
  /-- memory is in canonical form, its addresses 0x000 to 0xFFF (10_state.md R29) -/
  memCanonical : Memory.wf s.mem = true
  /-- `fault_cause` is NONE whenever the mode is not HALTED, and names the fault otherwise (R31) -/
  causeIffHalted : s.faultCause = .none ↔ s.mode ≠ .halted
  /-- the largest value an instruction can write to `pc` is 0x10FE (R23) -/
  pcBound : s.pc.toNat ≤ 0x10FE
  /-- a stack entry holds an advanced `pc`, at most 0x1000 (R23, R24) -/
  stackBound : ∀ k : Fin 16, s.stack[k].toNat ≤ 0x1000
  /-- in IDLE, before the first load, the core is as RESET left it (R36, 40_cycle.md R94) -/
  idleAsReset : s.mode = .idle →
    s = { State.reset with
      keys := s.keys, signal := s.signal, draws := s.draws, pending := s.pending, events := s.events }

end Sys2Proof.Machine
end

