-- ==== Sys2Proof/Certificates/Slice0/Obligations.lean ====
section
/-! DEFINITION. What is claimed of the machine, for the provers. Each docstring names the rules of spec/ a statement
comes from. The bit patterns of 30_encoding.md R81 are, by the spec's own mark, general knowledge (decision D4), but for
1NNN and 00E0; where a statement has a clause about the pattern of an instruction, it is the one its rule prints. -/

open Sys2Proof Sys2Proof.Machine

/-! ### Encoding (30_encoding.md) -/

/-- R72, R78, R81: no bit of an instruction is lost in its word. -/
def Obligations.DecodeInvertsEncode : Prop :=
  ∀ i : Instr, i.wellFormed = true → decode (encode i) = i

/-- R74 to R78: every word decodes, to a well-formed instruction whose word it is. -/
def Obligations.EveryWordDecodesAndReencodes : Prop :=
  ∀ w : Word, (decode w).wellFormed = true ∧ encode (decode w) = w

/-- R76, R77, R81: a word is the instruction of a row iff it matches the row, and a NOP iff it matches none. -/
def Obligations.DecodeFollowsOpcodeMap : Prop :=
  ∀ w : Word,
    (∀ row ∈ opcodeMap, rowMatches row w = true ↔ mnemonicOf (decode w) = row.mnemonic) ∧
    (decode w = .nop w ↔ ∀ row ∈ opcodeMap, rowMatches row w = false)

/-- R71: the fields, by the source's masks and shifts. -/
def Obligations.FieldsAreMaskedShifts : Prop :=
  ∀ op : Word,
    (fieldG op).toNat = (op.toNat >>> 12) &&& 0xF ∧
    (fieldX op).val = (op.toNat >>> 8) &&& 0xF ∧
    (fieldY op).val = (op.toNat >>> 4) &&& 0xF ∧
    (fieldN op).toNat = op.toNat &&& 0xF ∧
    (fieldNN op).toNat = op.toNat &&& 0xFF ∧
    (fieldNNN op).toNat = op.toNat &&& 0xFFF

/-- R77 (decision D6): the words of groups 5 and 9 with N ≠ 0, under both values of GROUP59_STRICT. -/
def Obligations.NonzeroNInGroupsFiveAndNine : Prop :=
  ∀ w : Word, fieldN w ≠ 0 →
    (fieldG w = 5 →
      decode w = if group59Strict then .nop w else .seReg (fieldX w) (fieldY w) (fieldN w)) ∧
    (fieldG w = 9 →
      decode w = if group59Strict then .nop w else .sneReg (fieldX w) (fieldY w) (fieldN w))

/-- A few words of 95_test_vectors.md, "Decode", read by the decoder on bytes. -/
def Obligations.SampleWordsDecode : Prop :=
  decodeBytes [0x8A, 0xB4] = .ok (.addReg 0xA 0xB, []) ∧
  decodeBytes [0xD1, 0x25] = .ok (.drw 1 2 5, []) ∧
  decodeBytes [0xF2, 0x65] = .ok (.ldVxMem 2, []) ∧
  decodeBytes [0x00, 0xE0] = .ok (.cls 0, []) ∧
  decodeBytes [0x00, 0xEE] = .ok (.ret 0, []) ∧
  decodeBytes [0x05, 0xE0] = .ok (.cls 5, []) ∧
  decodeBytes [0x00, 0x00] = .ok (.nop 0x0000, []) ∧
  decodeBytes [0x80, 0x1F] = .ok (.nop 0x801F, []) ∧
  decodeBytes [0xE1, 0x9F] = .ok (.nop 0xE19F, [])

/-! ### Memory (20_memory.md) -/

/-- R53: the byte at the lower address is the high byte of the word. -/
def Obligations.FetchIsBigEndian : Prop :=
  ∀ (m : Memory) (a : Word), a.toNat ≤ 0xFFE →
    ∃ w, Memory.fetch m a = some w ∧
      w.toNat = 256 * (Memory.read m a.toNat).toNat + (Memory.read m (a.toNat + 1)).toNat

/-- R61 (derived there from R53, R59): bytes stored by LD [I], VX are what a later fetch reads. -/
def Obligations.StoredBytesAreFetched : Prop :=
  ∀ (x j j' : RegIx) (s : State) (a : Word),
    Memory.wf s.mem = true → s.I.toNat + x.val ≤ 0xFFF → j'.val = j.val + 1 → j' ≤ x →
    a.toNat = s.I.toNat + j.val →
    ∃ t, exec (.ldMemVx x) s = .next t ∧
      ∃ w, Memory.fetch t.mem a = some w ∧ w.toNat = 256 * (s.reg j).toNat + (s.reg j').toNat

/-! ### The cycle and the events (40_cycle.md) -/

/-- R91: a cycle in RUNNING executes the instruction that the two bytes at `pc` decode to, with `pc` advanced, and raises
the update strobe. That the strobe is raised in a cycle whose instruction faults is the model's reading (log 8). -/
def Obligations.StepRunsDecodedInstruction : Prop :=
  ∀ (s : State) (i : Instr), s.nextEvent = .cycle → s.mode = .running → s.pc.toNat ≤ 0xFFE →
    decodeBytes [Memory.read s.mem s.pc.toNat, Memory.read s.mem (s.pc.toNat + 1)] = .ok (i, []) →
    ∃ t, exec i { s.takeEvent with pc := s.pc + 2 } = .next t ∧ step s = .next { t with signal := .update }

/-- R211: a cycle in RUNNING with `pc > 0xFFE` raises FETCH_OOB and changes nothing else of the machine, and no
instruction raises that fault. What the cycle signals is left open. -/
def Obligations.FetchOutOfRangeHalts : Prop :=
  (∀ s : State, s.nextEvent = .cycle → s.mode = .running → 0xFFE < s.pc.toNat →
    ∃ t, step s = .next t ∧
      t = { s.takeEvent with mode := .halted, faultCause := .fetchOob, signal := t.signal }) ∧
  (∀ (i : Instr) (s t : State), exec i s = .next t → s.faultCause ≠ .fetchOob → t.faultCause ≠ .fetchOob)

/-- R92 (decision D24): the poll of WAITING. -/
def Obligations.WaitingPollsTheKeypad : Prop :=
  ∀ s : State, s.nextEvent = .cycle → s.mode = .waiting →
    (s.keys = 0 → step s = .next { s.takeEvent with signal := .update }) ∧
    (∀ k < 16, s.keys.getLsbD k = true → (∀ j < k, s.keys.getLsbD j = false) →
      ∃ t, step s = .next t ∧
        (∀ r, t.reg r = if r = s.waitX then BitVec.ofNat 8 k else s.reg r) ∧
        t = { s.takeEvent with V := t.V, mode := .running, signal := .update })

/-- R93 (decision D34): a cycle in IDLE or HALTED does nothing and raises no strobe. -/
def Obligations.IdleAndHaltedCyclesDoNothing : Prop :=
  ∀ s : State, s.nextEvent = .cycle → (s.mode = .idle ∨ s.mode = .halted) →
    step s = .next { s.takeEvent with signal := .quiet }

/-- R222 (decision D25): a tick, in every mode. -/
def Obligations.TickDecrementsBothTimers : Prop :=
  ∀ s : State, s.nextEvent = .tick →
    ∃ t, step s = .next t ∧ t.DT.toNat = s.DT.toNat - 1 ∧ t.ST.toNat = s.ST.toNat - 1 ∧
      t = { s.takeEvent with DT := t.DT, ST := t.ST }

/-- R223: after `n` ticks a timer has lost `n`, and stays at 0. -/
def Obligations.TimersAfterTicks : Prop :=
  ∀ (n : Nat) (s : State) (rest : List Event),
    ∃ t, Host.Core.run Sys2Proof.core n { s with pending := List.replicate n .tick ++ rest } = .next t ∧
      t.DT.toNat = s.DT.toNat - n ∧ t.ST.toNat = s.ST.toNat - n ∧
      t = { s with DT := t.DT, ST := t.ST, pending := rest, signal := t.signal }

/-- R33: a key change sets one bit of the input, an unrecognized identifier none, and nothing else changes. -/
def Obligations.KeyChangesSetOneBit : Prop :=
  ∀ (s : State) (k : Nat),
    (s.nextEvent = .press k →
      ∃ t, step s = .next t ∧ (∀ j < 16, t.keys.getLsbD j = (s.keys.getLsbD j || j == k)) ∧
        t = { s.takeEvent with keys := t.keys }) ∧
    (s.nextEvent = .release k →
      ∃ t, step s = .next t ∧ (∀ j < 16, t.keys.getLsbD j = (s.keys.getLsbD j && j != k)) ∧
        t = { s.takeEvent with keys := t.keys })

/-- R240, R241 (decision D27): RESET from any mode; the key input stays, and so does what lies outside the core. -/
def Obligations.ResetGivesTheResetState : Prop :=
  ∀ s : State, s.nextEvent = .reset →
    step s = .next { State.reset with
      keys := s.keys, draws := s.draws, pending := s.takeEvent.pending, events := s.takeEvent.events }

/-- The glyphs of 20_memory.md R52, top row first. -/
def glyphRows : List (List Byte) :=
  [[0xF0, 0x90, 0x90, 0x90, 0xF0], [0x20, 0x60, 0x20, 0x20, 0x70], [0xF0, 0x10, 0xF0, 0x80, 0xF0],
   [0xF0, 0x10, 0xF0, 0x10, 0xF0], [0x90, 0x90, 0xF0, 0x10, 0x10], [0xF0, 0x80, 0xF0, 0x10, 0xF0],
   [0xF0, 0x80, 0xF0, 0x90, 0xF0], [0xF0, 0x10, 0x20, 0x40, 0x40], [0xF0, 0x90, 0xF0, 0x90, 0xF0],
   [0xF0, 0x90, 0xF0, 0x10, 0xF0], [0xF0, 0x90, 0xF0, 0x90, 0x90], [0xE0, 0x90, 0xE0, 0x90, 0xE0],
   [0xF0, 0x80, 0x80, 0x80, 0xF0], [0xE0, 0x90, 0x90, 0x90, 0xE0], [0xF0, 0x80, 0xF0, 0x80, 0xF0],
   [0xF0, 0x80, 0xF0, 0x80, 0x80]]

/-- R36, R51, R52 (decisions D2, D3, D27): what reset leaves in registers, timers, stack, display and memory, for every
admissible FONT_BASE. -/
def Obligations.ResetValues : Prop :=
  (∀ k, State.reset.reg k = 0) ∧ State.reset.I = 0 ∧ State.reset.pc = 0 ∧
  (∀ k : Fin 16, State.reset.stack[k] = 0) ∧ State.reset.sp = 0 ∧ State.reset.DT = 0 ∧ State.reset.ST = 0 ∧
  State.reset.soundOn = false ∧ State.reset.mode = .idle ∧ State.reset.faultCause = .none ∧ State.reset.waitX = 0 ∧
  (∀ x y, pixel State.reset.fb x y = false) ∧
  fontBase + 80 ≤ 0x200 ∧
  (∀ (d r : Nat), d < 16 → r < 5 →
    (glyphRows[d]?.bind fun g => g[r]?) = some (Memory.read State.reset.mem (fontBase + 5 * d + r))) ∧
  (∀ a : Nat, a < fontBase ∨ fontBase + 80 ≤ a → Memory.read State.reset.mem a = 0)

/-- R242, R63: LOAD of an image that fits, in IDLE. -/
def Obligations.LoadCopiesTheImage : Prop :=
  ∀ (s : State) (image : List Byte), s.nextEvent = .load image → s.mode = .idle → image.length ≤ 3584 →
    Memory.wf s.mem = true →
    ∃ t, step s = .next t ∧ t.pc = 0x200 ∧ t.mode = .running ∧ t.signal = .loadOk ∧
      (∀ j (h : j < image.length), Memory.read t.mem (0x200 + j) = image[j]) ∧
      (∀ a, a < 0x200 ∨ 0x200 + image.length ≤ a → Memory.read t.mem a = Memory.read s.mem a) ∧
      t = { s.takeEvent with mem := t.mem, pc := t.pc, mode := t.mode, signal := t.signal }

/-- R219, R242: an image that is too long changes nothing and reports LoadError; a LOAD outside IDLE, which decision D28
leaves undefined, is refused by the model (log 10). -/
def Obligations.LoadThatDoesNotRun : Prop :=
  ∀ (s : State) (image : List Byte), s.nextEvent = .load image →
    (s.mode = .idle → 3584 < image.length → step s = .next { s.takeEvent with signal := .loadError }) ∧
    (s.mode ≠ .idle → step s = .refused .loadNotIdle)

/-! ### Whole-machine rules -/

/-- R29, R31, R23, R24, R36, R94: every event keeps the invariant. -/
def Obligations.StepKeepsInvariant : Prop :=
  ∀ s t : State, s.Inv → step s = .next t → t.Inv

/-- R36: the invariant holds after reset. -/
def Obligations.ResetMeetsInvariant : Prop := State.reset.Inv

/-- R90, R91, R242: every event answers a next state but a LOAD outside IDLE, which the model refuses (decision D28, log
10). A cycle that faults (R210 to R215) answers a next state too, in mode HALTED with the cause set: that a fault of the
core is a next state is the model's reading (log 11), so no step answers the outcome fault, and a next state does not say
that no fault occurred. -/
def Obligations.OnlyLoadOutsideIdleIsRefused : Prop :=
  ∀ s : State,
    ((∃ image, s.nextEvent = .load image ∧ s.mode ≠ .idle) → step s = .refused .loadNotIdle) ∧
    ((∀ image, s.nextEvent = .load image → s.mode = .idle) → ∃ t, step s = .next t)

/-- Which fault an instruction raises, from R111, R112 and R56. -/
def faultOf (i : Instr) (s : State) : FaultCause :=
  match i with
  | .call _ => if s.sp.val = 16 then .stackOverflow else .none
  | .ret _ => if s.sp.val = 0 then .stackUnderflow else .none
  | .drw _ _ n => if 1 ≤ n.toNat ∧ 0xFFF < s.I.toNat + n.toNat - 1 then .dataOob else .none
  | .ldB _ => if 0xFFF < s.I.toNat + 2 then .dataOob else .none
  | .ldMemVx x => if 0xFFF < s.I.toNat + x.val then .dataOob else .none
  | .ldVxMem x => if 0xFFF < s.I.toNat + x.val then .dataOob else .none
  | _ => .none

/-- R210, R215, R217 (decisions D15, D20): an instruction raises a fault exactly where its rule says, the fault changes
the cause and the mode and nothing else, and no other instruction or operand halts the machine. -/
def Obligations.FaultsArePreciseAndOnlyThese : Prop :=
  ∀ (i : Instr) (s : State),
    (faultOf i s ≠ .none → exec i s = .next { s with mode := .halted, faultCause := faultOf i s }) ∧
    (faultOf i s = .none →
      ∃ t, exec i s = .next t ∧ t.faultCause = s.faultCause ∧ (s.mode ≠ .halted → t.mode ≠ .halted))

/-- R216, R93, R222 (decision D25): HALTED is left only by RESET; until then only the timers, the key input and what lies
outside the core change. -/
def Obligations.HaltedIsLeftOnlyByReset : Prop :=
  ∀ s : State, s.mode = .halted →
    (s.nextEvent = .reset → ∃ t, step s = .next t ∧ t.mode = .idle ∧ t.faultCause = .none) ∧
    (∀ t, s.nextEvent ≠ .reset → step s = .next t →
      t = { s.takeEvent with DT := t.DT, ST := t.ST, keys := t.keys })

/-- R94: the mode changes only along these transitions. -/
def Obligations.ModeTransitions : Prop :=
  ∀ s t : State, step s = .next t → t.mode ≠ s.mode →
    (s.nextEvent = .reset ∧ t.mode = .idle) ∨
    (s.mode = .idle ∧ t.mode = .running ∧ t.pc = 0x200 ∧
      ∃ image, s.nextEvent = .load image ∧ image.length ≤ 3584) ∨
    (s.mode = .waiting ∧ t.mode = .running ∧ s.nextEvent = .cycle ∧ s.keys ≠ 0) ∨
    (s.mode = .running ∧ s.nextEvent = .cycle ∧
      ((0xFFE < s.pc.toNat ∧ t.mode = .halted ∧ t.faultCause = .fetchOob) ∨
       ∃ op, Memory.fetch s.mem s.pc = some op ∧
        ((t.mode = .halted ∧ t.faultCause = faultOf (decode op) s ∧ t.faultCause ≠ .none) ∨
         (t.mode = .waiting ∧ s.keys = 0 ∧ decode op = .ldVxK t.waitX))))

/-- R38: which instruction writes which state besides the general registers; a fault writes `mode` and `fault_cause`. -/
def Obligations.EachStateHasItsWriters : Prop :=
  ∀ (i : Instr) (s t : State), exec i s = .next t →
    (t.I ≠ s.I → (∃ nnn, i = .ldI nnn) ∨ (∃ x, i = .addI x) ∨ (∃ x, i = .ldF x)) ∧
    (t.pc ≠ s.pc →
      (∃ nnn, i = .jp nnn ∨ i = .call nnn ∨ i = .jpV0 nnn) ∨ (∃ z, i = .ret z) ∨
      (∃ x nn, i = .seImm x nn ∨ i = .sneImm x nn) ∨ (∃ x y n, i = .seReg x y n ∨ i = .sneReg x y n) ∨
      (∃ x, i = .skp x ∨ i = .sknp x)) ∧
    (t.stack ≠ s.stack → ∃ nnn, i = .call nnn) ∧
    (t.sp ≠ s.sp → (∃ nnn, i = .call nnn) ∨ (∃ z, i = .ret z)) ∧
    (t.DT ≠ s.DT → ∃ x, i = .ldDtVx x) ∧
    (t.ST ≠ s.ST → ∃ x, i = .ldStVx x) ∧
    (t.fb ≠ s.fb → (∃ z, i = .cls z) ∨ (∃ x y n, i = .drw x y n)) ∧
    (t.mem ≠ s.mem → ∃ x, i = .ldB x ∨ i = .ldMemVx x) ∧
    (t.waitX ≠ s.waitX → ∃ x, i = .ldVxK x) ∧
    (t.mode ≠ s.mode → (∃ x, i = .ldVxK x) ∨ faultOf i s ≠ .none) ∧
    (t.faultCause ≠ s.faultCause → faultOf i s ≠ .none) ∧
    (t.draws ≠ s.draws → ∃ x nn, i = .rnd x nn) ∧
    t.keys = s.keys ∧ t.signal = s.signal ∧ t.pending = s.pending ∧ t.events = s.events

/-- The registers an instruction may write: its destination, and VF for the six instructions of R21. -/
def mayWriteReg (i : Instr) (k : RegIx) : Prop :=
  match i with
  | .ldImm x _ | .addImm x _ | .rnd x _ => k = x
  | .ldReg x _ | .orReg x _ | .andReg x _ | .xorReg x _ => k = x
  | .addReg x _ | .sub x _ | .subn x _ | .shr x _ | .shl x _ => k = x ∨ k = 15
  | .drw _ _ _ => k = 15
  | .ldVxDt x | .ldVxK x => k = x
  | .ldVxMem x => k ≤ x
  | _ => False

/-- R21, R38 (decision D11 for OR, AND, XOR): no instruction writes any other register; VF is written as a side effect by
ADD VX,VY, SUB, SHR, SUBN, SHL and DRW alone. -/
def Obligations.RegistersChangeOnlyAsDestinations : Prop :=
  ∀ (i : Instr) (s t : State) (k : RegIx), exec i s = .next t → t.reg k ≠ s.reg k → mayWriteReg i k

/-- R250: an instruction other than SKP, SKNP and LD VX,K does the same whatever the keys are; one other than RND
whatever the draws are; one other than LD VX,DT whatever the timers are. -/
def Obligations.InputsReachOnlyTheirReaders : Prop :=
  ∀ (i : Instr) (s t : State), exec i s = .next t →
    ((∀ x, i ≠ .skp x ∧ i ≠ .sknp x ∧ i ≠ .ldVxK x) →
      ∀ ks, exec i { s with keys := ks } = .next { t with keys := ks }) ∧
    ((∀ x nn, i ≠ .rnd x nn) → ∀ d, exec i { s with draws := d } = .next { t with draws := d }) ∧
    ((∀ x, i ≠ .ldVxDt x) → ∀ d e, ∃ u, exec i { s with DT := d, ST := e } = .next u ∧
      u = { t with DT := u.DT, ST := u.ST })

/-! ### NOP and control transfer (40_cycle.md R95, 41_control_flow.md) -/

/-- R95: a word of no pattern is a NOP, whose cycle advances `pc` by 2 and changes nothing else. -/
def Obligations.NopOnlyAdvances : Prop :=
  (∀ (w : Word) (s : State), exec (.nop w) s = .next s) ∧
  (∀ (s : State) (w : Word), s.nextEvent = .cycle → s.mode = .running → Memory.fetch s.mem s.pc = some w →
    (∀ row ∈ opcodeMap, rowMatches row w = false) →
    decode w = .nop w ∧ step s = .next { s.takeEvent with pc := s.pc + 2, signal := .update })

/-- R110. -/
def Obligations.JumpSetsPc : Prop :=
  (∀ w : Word, w &&& 0xF000#16 = 0x1000#16 → decode w = .jp (fieldNNN w)) ∧
  (∀ (nnn : Addr12) (s : State), ∃ t, exec (.jp nnn) s = .next t ∧ t.pc.toNat = nnn.toNat ∧ t = { s with pc := t.pc })

/-- R117 (decision D31: the sum is not reduced modulo 4096). -/
def Obligations.JumpWithOffsetAddsRegisterZero : Prop :=
  (∀ w : Word, w &&& 0xF000#16 = 0xB000#16 → decode w = .jpV0 (fieldNNN w)) ∧
  (∀ (nnn : Addr12) (s : State), ∃ t, exec (.jpV0 nnn) s = .next t ∧
    t.pc.toNat = (s.reg 0).toNat + nnn.toNat ∧ t = { s with pc := t.pc })

/-- R111: CALL pushes the advanced `pc`, and faults with nothing pushed when sixteen entries are occupied. -/
def Obligations.CallPushesPc : Prop :=
  (∀ w : Word, w &&& 0xF000#16 = 0x2000#16 → decode w = .call (fieldNNN w)) ∧
  (∀ (nnn : Addr12) (s : State),
    (s.sp.val < 16 → ∃ t, exec (.call nnn) s = .next t ∧ t.stack[s.sp.val]? = some s.pc ∧
      t.sp.val = s.sp.val + 1 ∧ t.pc.toNat = nnn.toNat ∧
      (∀ k, k ≠ s.sp.val → t.stack[k]? = s.stack[k]?) ∧
      t = { s with pc := t.pc, sp := t.sp, stack := t.stack }) ∧
    (s.sp.val = 16 → exec (.call nnn) s = .next { s with mode := .halted, faultCause := .stackOverflow }))

/-- R112: RET pops, erases nothing, and faults when the stack is empty. -/
def Obligations.ReturnPopsPc : Prop :=
  (∀ w : Word, w &&& 0xF0FF#16 = 0x00EE#16 → decode w = .ret (fieldX4 w)) ∧
  (∀ (z : Nibble) (s : State),
    (0 < s.sp.val → ∃ t, exec (.ret z) s = .next t ∧ t.sp.val + 1 = s.sp.val ∧ s.stack[t.sp.val]? = some t.pc ∧
      t = { s with pc := t.pc, sp := t.sp }) ∧
    (s.sp.val = 0 → exec (.ret z) s = .next { s with mode := .halted, faultCause := .stackUnderflow }))

/-- 95_test_vectors.md S7 (the source's §8): CALL then RET restores `pc` and the stack pointer. -/
def Obligations.CallThenReturnRestoresPc : Prop :=
  ∀ (nnn : Addr12) (z : Nibble) (s : State), s.sp.val < 16 →
    ∃ t u, exec (.call nnn) s = .next t ∧ exec (.ret z) t = .next u ∧ u = { s with stack := u.stack } ∧
      ∀ k < s.sp.val, u.stack[k]? = s.stack[k]?

/-- R113 to R116: the compare-and-skip instructions. -/
def Obligations.CompareSkips : Prop :=
  (∀ w : Word, w &&& 0xF000#16 = 0x3000#16 → decode w = .seImm (fieldX w) (fieldNN w)) ∧
  (∀ w : Word, w &&& 0xF000#16 = 0x4000#16 → decode w = .sneImm (fieldX w) (fieldNN w)) ∧
  (∀ w : Word, w &&& 0xF00F#16 = 0x5000#16 → decode w = .seReg (fieldX w) (fieldY w) 0) ∧
  (∀ w : Word, w &&& 0xF00F#16 = 0x9000#16 → decode w = .sneReg (fieldX w) (fieldY w) 0) ∧
  (∀ (x : RegIx) (nn : Byte) (s : State),
    (∃ t, exec (.seImm x nn) s = .next t ∧ t.pc = (if s.reg x = nn then s.pc + 2 else s.pc) ∧ t = { s with pc := t.pc }) ∧
    (∃ t, exec (.sneImm x nn) s = .next t ∧ t.pc = (if s.reg x = nn then s.pc else s.pc + 2) ∧
      t = { s with pc := t.pc })) ∧
  (∀ (x y : RegIx) (n : Nibble) (s : State),
    (∃ t, exec (.seReg x y n) s = .next t ∧ t.pc = (if s.reg x = s.reg y then s.pc + 2 else s.pc) ∧
      t = { s with pc := t.pc }) ∧
    (∃ t, exec (.sneReg x y n) s = .next t ∧ t.pc = (if s.reg x = s.reg y then s.pc else s.pc + 2) ∧
      t = { s with pc := t.pc }))

/-! ### Loads, arithmetic, logic, shifts, random (42_alu.md) -/

/-- R131, R133. -/
def Obligations.RegisterLoads : Prop :=
  (∀ w : Word, w &&& 0xF000#16 = 0x6000#16 → decode w = .ldImm (fieldX w) (fieldNN w)) ∧
  (∀ w : Word, w &&& 0xF00F#16 = 0x8000#16 → decode w = .ldReg (fieldX w) (fieldY w)) ∧
  (∀ (x : RegIx) (nn : Byte) (s : State), ∃ t, exec (.ldImm x nn) s = .next t ∧
    (∀ k, t.reg k = if k = x then nn else s.reg k) ∧ t = { s with V := t.V }) ∧
  (∀ (x y : RegIx) (s : State), ∃ t, exec (.ldReg x y) s = .next t ∧
    (∀ k, t.reg k = if k = x then s.reg y else s.reg k) ∧ t = { s with V := t.V })

/-- R132: modulo 256, and VF is not written unless it is the destination. -/
def Obligations.AddImmediateWraps : Prop :=
  (∀ w : Word, w &&& 0xF000#16 = 0x7000#16 → decode w = .addImm (fieldX w) (fieldNN w)) ∧
  (∀ (x : RegIx) (nn : Byte) (s : State), ∃ t, exec (.addImm x nn) s = .next t ∧
    (t.reg x).toNat = ((s.reg x).toNat + nn.toNat) % 256 ∧ (∀ k, k ≠ x → t.reg k = s.reg k) ∧
    t = { s with V := t.V })

/-- R134, R135, R136 (decision D11: VF unchanged unless it is the destination). -/
def Obligations.LogicBitByBit : Prop :=
  (∀ w : Word, w &&& 0xF00F#16 = 0x8001#16 → decode w = .orReg (fieldX w) (fieldY w)) ∧
  (∀ w : Word, w &&& 0xF00F#16 = 0x8002#16 → decode w = .andReg (fieldX w) (fieldY w)) ∧
  (∀ w : Word, w &&& 0xF00F#16 = 0x8003#16 → decode w = .xorReg (fieldX w) (fieldY w)) ∧
  (∀ (x y : RegIx) (s : State),
    (∃ t, exec (.orReg x y) s = .next t ∧
      (∀ b, (t.reg x).getLsbD b = ((s.reg x).getLsbD b || (s.reg y).getLsbD b)) ∧
      (∀ k, k ≠ x → t.reg k = s.reg k) ∧ t = { s with V := t.V }) ∧
    (∃ t, exec (.andReg x y) s = .next t ∧
      (∀ b, (t.reg x).getLsbD b = ((s.reg x).getLsbD b && (s.reg y).getLsbD b)) ∧
      (∀ k, k ≠ x → t.reg k = s.reg k) ∧ t = { s with V := t.V }) ∧
    (∃ t, exec (.xorReg x y) s = .next t ∧
      (∀ b, (t.reg x).getLsbD b = ((s.reg x).getLsbD b ^^ (s.reg y).getLsbD b)) ∧
      (∀ k, k ≠ x → t.reg k = s.reg k) ∧ t = { s with V := t.V }))

/-- R137: the sum modulo 256, VF the carry, both from the old values. With X = 15 the result is written last and
survives (R130, decision D10). -/
def Obligations.AddRegistersSetsCarry : Prop :=
  (∀ w : Word, w &&& 0xF00F#16 = 0x8004#16 → decode w = .addReg (fieldX w) (fieldY w)) ∧
  (∀ (x y : RegIx) (s : State), ∃ t, exec (.addReg x y) s = .next t ∧
    (t.reg x).toNat = ((s.reg x).toNat + (s.reg y).toNat) % 256 ∧
    (x ≠ 15 → t.reg 15 = if (s.reg x).toNat + (s.reg y).toNat > 255 then 1 else 0) ∧
    (∀ k, k ≠ x → k ≠ 15 → t.reg k = s.reg k) ∧ t = { s with V := t.V })

/-- R138, R140 (decisions D8, D10), for both values of SUB_EQUAL_FLAG. -/
def Obligations.SubtractsSetNoBorrow : Prop :=
  (∀ w : Word, w &&& 0xF00F#16 = 0x8005#16 → decode w = .sub (fieldX w) (fieldY w)) ∧
  (∀ w : Word, w &&& 0xF00F#16 = 0x8007#16 → decode w = .subn (fieldX w) (fieldY w)) ∧
  (subEqualFlag = 0 ∨ subEqualFlag = 1) ∧
  (∀ (x y : RegIx) (s : State),
    (∃ t, exec (.sub x y) s = .next t ∧
      (t.reg x).toNat = (256 + (s.reg x).toNat - (s.reg y).toNat) % 256 ∧
      (x ≠ 15 → t.reg 15 = if (s.reg y).toNat < (s.reg x).toNat then 1
        else if s.reg x = s.reg y then subEqualFlag else 0) ∧
      (∀ k, k ≠ x → k ≠ 15 → t.reg k = s.reg k) ∧ t = { s with V := t.V }) ∧
    (∃ t, exec (.subn x y) s = .next t ∧
      (t.reg x).toNat = (256 + (s.reg y).toNat - (s.reg x).toNat) % 256 ∧
      (x ≠ 15 → t.reg 15 = if (s.reg x).toNat < (s.reg y).toNat then 1
        else if s.reg x = s.reg y then subEqualFlag else 0) ∧
      (∀ k, k ≠ x → k ≠ 15 → t.reg k = s.reg k) ∧ t = { s with V := t.V }))

/-- R140 (the source's §8): on the same unequal inputs exactly one of SUB and SUBN sets the flag, and the two results are
each other's negatives modulo 256. -/
def Obligations.SubtractsAreComplementary : Prop :=
  ∀ (x y : RegIx) (s : State), x ≠ 15 → s.reg x ≠ s.reg y →
    ∃ t u, exec (.sub x y) s = .next t ∧ exec (.subn x y) s = .next u ∧
      (t.reg 15).toNat + (u.reg 15).toNat = 1 ∧ t.reg x + u.reg x = 0

/-- R139, R141 (decisions D9, D10): by one bit, logical, Y ignored, VF the bit shifted out. -/
def Obligations.ShiftsByOne : Prop :=
  (∀ w : Word, w &&& 0xF00F#16 = 0x8006#16 → decode w = .shr (fieldX w) (fieldY4 w)) ∧
  (∀ w : Word, w &&& 0xF00F#16 = 0x800E#16 → decode w = .shl (fieldX w) (fieldY4 w)) ∧
  (∀ (x : RegIx) (z : Nibble) (s : State),
    (∃ t, exec (.shr x z) s = .next t ∧ (t.reg x).toNat = (s.reg x).toNat / 2 ∧
      (x ≠ 15 → (t.reg 15).toNat = (s.reg x).toNat % 2) ∧
      (∀ k, k ≠ x → k ≠ 15 → t.reg k = s.reg k) ∧ t = { s with V := t.V }) ∧
    (∃ t, exec (.shl x z) s = .next t ∧ (t.reg x).toNat = (s.reg x).toNat * 2 % 256 ∧
      (x ≠ 15 → (t.reg 15).toNat = (s.reg x).toNat / 128) ∧
      (∀ k, k ≠ x → k ≠ 15 → t.reg k = s.reg k) ∧ t = { s with V := t.V }))

/-- R143 (decision D26): a fresh draw masked by NN, whatever the draw is; no bit outside NN. -/
def Obligations.RandomMasksAFreshDraw : Prop :=
  (∀ w : Word, w &&& 0xF000#16 = 0xC000#16 → decode w = .rnd (fieldX w) (fieldNN w)) ∧
  (∀ (x : RegIx) (nn : Byte) (s : State), ∃ t, exec (.rnd x nn) s = .next t ∧
    t.reg x = Config.drawByte s.draws &&& nn ∧ t.draws = s.draws + 1 ∧
    (∀ b, nn.getLsbD b = false → (t.reg x).getLsbD b = false) ∧
    (∀ k, k ≠ x → t.reg k = s.reg k) ∧ t = { s with V := t.V, draws := t.draws })

/-! ### Index register and memory instructions (43_index_memory.md) -/

/-- R160, R161, R162 (decisions D13, D14), for every admissible FONT_BASE. -/
def Obligations.IndexRegisterWrites : Prop :=
  (∀ w : Word, w &&& 0xF000#16 = 0xA000#16 → decode w = .ldI (fieldNNN w)) ∧
  (∀ w : Word, w &&& 0xF0FF#16 = 0xF01E#16 → decode w = .addI (fieldX w)) ∧
  (∀ w : Word, w &&& 0xF0FF#16 = 0xF029#16 → decode w = .ldF (fieldX w)) ∧
  (∀ (nnn : Addr12) (s : State), ∃ t, exec (.ldI nnn) s = .next t ∧ t.I.toNat = nnn.toNat ∧ t = { s with I := t.I }) ∧
  (∀ (x : RegIx) (s : State),
    (∃ t, exec (.addI x) s = .next t ∧ t.I.toNat = (s.I.toNat + (s.reg x).toNat) % 65536 ∧ t = { s with I := t.I }) ∧
    (∃ t, exec (.ldF x) s = .next t ∧ t.I.toNat = fontBase + 5 * (s.reg x).toNat ∧ t = { s with I := t.I }))

/-- R163: the three decimal digits at `I`, `I + 1`, `I + 2`, every other byte kept, DATA_OOB iff `I > 0xFFD`. -/
def Obligations.BcdStoresThreeDigits : Prop :=
  (∀ w : Word, w &&& 0xF0FF#16 = 0xF033#16 → decode w = .ldB (fieldX w)) ∧
  (∀ (x : RegIx) (s : State),
    (s.I.toNat ≤ 0xFFD → ∃ t, exec (.ldB x) s = .next t ∧
      (Memory.wf s.mem = true →
        (Memory.read t.mem s.I.toNat).toNat = (s.reg x).toNat / 100 ∧
        (Memory.read t.mem (s.I.toNat + 1)).toNat = (s.reg x).toNat / 10 % 10 ∧
        (Memory.read t.mem (s.I.toNat + 2)).toNat = (s.reg x).toNat % 10) ∧
      (∀ a, a < s.I.toNat ∨ s.I.toNat + 3 ≤ a → Memory.read t.mem a = Memory.read s.mem a) ∧
      t = { s with mem := t.mem }) ∧
    (0xFFD < s.I.toNat → exec (.ldB x) s = .next { s with mode := .halted, faultCause := .dataOob }))

/-- R164 (decisions D12, D15): `V[0]` to `V[X]`, X included, at ascending addresses; `I` and every other byte kept. -/
def Obligations.StoreRegistersCopiesUpToX : Prop :=
  (∀ w : Word, w &&& 0xF0FF#16 = 0xF055#16 → decode w = .ldMemVx (fieldX w)) ∧
  (∀ (x : RegIx) (s : State),
    (s.I.toNat + x.val ≤ 0xFFF → ∃ t, exec (.ldMemVx x) s = .next t ∧
      (Memory.wf s.mem = true → ∀ k ≤ x, Memory.read t.mem (s.I.toNat + k.val) = s.reg k) ∧
      (∀ a, a < s.I.toNat ∨ s.I.toNat + x.val + 1 ≤ a → Memory.read t.mem a = Memory.read s.mem a) ∧
      t = { s with mem := t.mem }) ∧
    (0xFFF < s.I.toNat + x.val → exec (.ldMemVx x) s = .next { s with mode := .halted, faultCause := .dataOob }))

/-- R165 (decisions D12, D15): `V[0]` to `V[X]` from memory; registers above X, `I` and memory kept. -/
def Obligations.LoadRegistersCopiesUpToX : Prop :=
  (∀ w : Word, w &&& 0xF0FF#16 = 0xF065#16 → decode w = .ldVxMem (fieldX w)) ∧
  (∀ (x : RegIx) (s : State),
    (s.I.toNat + x.val ≤ 0xFFF → ∃ t, exec (.ldVxMem x) s = .next t ∧
      (∀ k, t.reg k = if k ≤ x then Memory.read s.mem (s.I.toNat + k.val) else s.reg k) ∧ t = { s with V := t.V }) ∧
    (0xFFF < s.I.toNat + x.val → exec (.ldVxMem x) s = .next { s with mode := .halted, faultCause := .dataOob }))

/-- R165 (the source's §8): LD [I],VX then LD VX,[I], on any register file in between, gives back `V[0]` to `V[X]`. -/
def Obligations.StoreThenLoadRoundTrip : Prop :=
  ∀ (x : RegIx) (s : State) (V : Vector Byte 16), Memory.wf s.mem = true → s.I.toNat + x.val ≤ 0xFFF →
    ∃ t u, exec (.ldMemVx x) s = .next t ∧ exec (.ldVxMem x) { t with V := V } = .next u ∧
      (∀ k ≤ x, u.reg k = s.reg k) ∧ (∀ k, x < k → u.reg k = V[k]) ∧ u.I = s.I

/-! ### Display (44_display.md) -/

/-- R181. -/
def Obligations.ClearScreenTurnsEveryPixelOff : Prop :=
  (∀ w : Word, w &&& 0xF0FF#16 = 0x00E0#16 → decode w = .cls (fieldX4 w)) ∧
  (∀ (z : Nibble) (s : State), ∃ t, exec (.cls z) s = .next t ∧ (∀ x y, pixel t.fb x y = false) ∧
    t = { s with fb := t.fb })

/-- The sprite of DRW VX, VY, N has a 1 bit at the pixel in column `px` and row `py` (R182). -/
def spriteLights (s : State) (x y : RegIx) (n : Nibble) (px : Fin 64) (py : Fin 32) : Prop :=
  ∃ r c, r < n.toNat ∧ c < 8 ∧ px.val = ((s.reg x).toNat + c) % 64 ∧ py.val = ((s.reg y).toNat + r) % 32 ∧
    (Memory.read s.mem (s.I.toNat + r)).getLsbD (7 - c) = true

/-- R182 (decisions D15, D21, D22): DRW XORs the sprite into the display with wrap-around at both edges and writes VF as
the collision; everything else is kept; DATA_OOB iff a sprite byte lies above 0xFFF. -/
def Obligations.DrawXorsTheSprite : Prop :=
  (∀ w : Word, w &&& 0xF000#16 = 0xD000#16 → decode w = .drw (fieldX w) (fieldY w) (fieldN w)) ∧
  (∀ (x y : RegIx) (n : Nibble) (s : State),
    ((n = 0 ∨ s.I.toNat + n.toNat - 1 ≤ 0xFFF) → ∃ t, exec (.drw x y n) s = .next t ∧
      (∀ px py, pixel t.fb px py = true ↔ ¬(pixel s.fb px py = true ↔ spriteLights s x y n px py)) ∧
      ((∃ px py, pixel s.fb px py = true ∧ spriteLights s x y n px py) → t.reg 15 = 1) ∧
      ((∀ px py, spriteLights s x y n px py → pixel s.fb px py = false) → t.reg 15 = 0) ∧
      (∀ k, k ≠ 15 → t.reg k = s.reg k) ∧ t = { s with fb := t.fb, V := t.V }) ∧
    (n ≠ 0 → 0xFFF < s.I.toNat + n.toNat - 1 →
      exec (.drw x y n) s = .next { s with mode := .halted, faultCause := .dataOob }))

/-- R183 (a): drawing the same sprite twice restores the display. -/
def Obligations.DrawTwiceRestoresTheDisplay : Prop :=
  ∀ (x y : RegIx) (n : Nibble) (s : State), x ≠ 15 → y ≠ 15 → (n = 0 ∨ s.I.toNat + n.toNat - 1 ≤ 0xFFF) →
    ∃ t u, exec (.drw x y n) s = .next t ∧ exec (.drw x y n) t = .next u ∧ u = { s with V := u.V } ∧
      ∀ k, k ≠ 15 → u.reg k = s.reg k

/-! ### Keypad and timers (45_keypad_timers.md) -/

/-- R191, R192 (decision D23: an identifier above 15 is not pressed). -/
def Obligations.KeySkips : Prop :=
  (∀ w : Word, w &&& 0xF0FF#16 = 0xE09E#16 → decode w = .skp (fieldX w)) ∧
  (∀ w : Word, w &&& 0xF0FF#16 = 0xE0A1#16 → decode w = .sknp (fieldX w)) ∧
  (∀ (x : RegIx) (s : State),
    (∃ t, exec (.skp x) s = .next t ∧
      t.pc = (if (s.reg x).toNat ≤ 15 ∧ s.keys.getLsbD (s.reg x).toNat = true then s.pc + 2 else s.pc) ∧
      t = { s with pc := t.pc }) ∧
    (∃ t, exec (.sknp x) s = .next t ∧
      t.pc = (if (s.reg x).toNat ≤ 15 ∧ s.keys.getLsbD (s.reg x).toNat = true then s.pc else s.pc + 2) ∧
      t = { s with pc := t.pc }))

/-- R193 (decision D24): with a key pressed the lowest one is loaded at once, with none the machine waits. -/
def Obligations.LoadKeyTakesTheLowestOrWaits : Prop :=
  (∀ w : Word, w &&& 0xF0FF#16 = 0xF00A#16 → decode w = .ldVxK (fieldX w)) ∧
  (∀ (x : RegIx) (s : State),
    (s.keys ≠ 0 → ∃ t k, exec (.ldVxK x) s = .next t ∧ k < 16 ∧ s.keys.getLsbD k = true ∧
      (∀ j < k, s.keys.getLsbD j = false) ∧ (t.reg x).toNat = k ∧ (∀ r, r ≠ x → t.reg r = s.reg r) ∧
      t = { s with V := t.V }) ∧
    (s.keys = 0 → exec (.ldVxK x) s = .next { s with waitX := x, mode := .waiting }))

/-- R194. -/
def Obligations.LoadDelayTimer : Prop :=
  (∀ w : Word, w &&& 0xF0FF#16 = 0xF007#16 → decode w = .ldVxDt (fieldX w)) ∧
  (∀ (x : RegIx) (s : State), ∃ t, exec (.ldVxDt x) s = .next t ∧
    (∀ k, t.reg k = if k = x then s.DT else s.reg k) ∧ t = { s with V := t.V })

/-- R195, R196, R224: the timer stores, and `sound_on` follows ST at once. -/
def Obligations.StoreTimers : Prop :=
  (∀ w : Word, w &&& 0xF0FF#16 = 0xF015#16 → decode w = .ldDtVx (fieldX w)) ∧
  (∀ w : Word, w &&& 0xF0FF#16 = 0xF018#16 → decode w = .ldStVx (fieldX w)) ∧
  (∀ (x : RegIx) (s : State),
    (∃ t, exec (.ldDtVx x) s = .next t ∧ t.DT = s.reg x ∧ t = { s with DT := t.DT }) ∧
    (∃ t, exec (.ldStVx x) s = .next t ∧ t.ST = s.reg x ∧ (t.soundOn = true ↔ t.ST ≠ 0) ∧
      t = { s with ST := t.ST }))
end

