-- ==== Sys2Proof/Laws/Fields.lean ====
section
/-! SUPPORT. What the fields of a word are, for words in parts and for masked words (30_encoding.md R71, R72, R81). -/

namespace Sys2Proof

open Sys2Proof.Machine

/-! ### Fields of a word put together from its parts -/

@[simp] theorem fieldG_formA (g : Nibble) (nnn : Addr12) : fieldG (formA g nnn) = g := by
  ext i hi; interval_cases i <;> simp [fieldG, formA]

@[simp] theorem fieldNNN_formA (g : Nibble) (nnn : Addr12) : fieldNNN (formA g nnn) = nnn := by
  ext i hi; interval_cases i <;> simp [fieldNNN, formA]

@[simp] theorem fieldG_formI (g x : Nibble) (nn : Byte) : fieldG (formI g x nn) = g := by
  ext i hi; interval_cases i <;> simp [fieldG, formI]

@[simp] theorem fieldX4_formI (g x : Nibble) (nn : Byte) : fieldX4 (formI g x nn) = x := by
  ext i hi; interval_cases i <;> simp [fieldX4, formI]

@[simp] theorem fieldNN_formI (g x : Nibble) (nn : Byte) : fieldNN (formI g x nn) = nn := by
  ext i hi; interval_cases i <;> simp [fieldNN, formI]

@[simp] theorem fieldG_formR (g x y n : Nibble) : fieldG (formR g x y n) = g := by
  ext i hi; interval_cases i <;> simp [fieldG, formR]

@[simp] theorem fieldX4_formR (g x y n : Nibble) : fieldX4 (formR g x y n) = x := by
  ext i hi; interval_cases i <;> simp [fieldX4, formR]

@[simp] theorem fieldY4_formR (g x y n : Nibble) : fieldY4 (formR g x y n) = y := by
  ext i hi; interval_cases i <;> simp [fieldY4, formR]

@[simp] theorem fieldN_formR (g x y n : Nibble) : fieldN (formR g x y n) = n := by
  ext i hi; interval_cases i <;> simp [fieldN, formR]

/-! ### Register fields -/

theorem fieldX_eq (w : Word) : fieldX w = (fieldX4 w).toFin := rfl

theorem fieldY_eq (w : Word) : fieldY w = (fieldY4 w).toFin := rfl

@[simp] theorem regField_toFin (n : Nibble) : regField n.toFin = n := by
  simp [regField]

@[simp] theorem toFin_regField (x : RegIx) : (regField x).toFin = x := by
  ext; simp [regField]

@[simp] theorem regField_fieldX (w : Word) : regField (fieldX w) = fieldX4 w := regField_toFin _

@[simp] theorem regField_fieldY (w : Word) : regField (fieldY w) = fieldY4 w := regField_toFin _

@[simp] theorem fieldX_formI (g : Nibble) (x : RegIx) (nn : Byte) : fieldX (formI g (regField x) nn) = x := by
  simp [fieldX_eq]

@[simp] theorem fieldX_formR (g : Nibble) (x : RegIx) (y n : Nibble) : fieldX (formR g (regField x) y n) = x := by
  simp [fieldX_eq]

@[simp] theorem fieldY_formR (g x : Nibble) (y : RegIx) (n : Nibble) : fieldY (formR g x (regField y) n) = y := by
  simp [fieldY_eq]

/-! ### A word from its fields -/

theorem formA_fields (w : Word) : formA (fieldG w) (fieldNNN w) = w := by
  ext i hi; interval_cases i <;> simp [fieldG, fieldNNN, formA]

theorem formI_fields (w : Word) : formI (fieldG w) (fieldX4 w) (fieldNN w) = w := by
  ext i hi; interval_cases i <;> simp [fieldG, fieldX4, fieldNN, formI]

theorem formR_fields (w : Word) : formR (fieldG w) (fieldX4 w) (fieldY4 w) (fieldN w) = w := by
  ext i hi; interval_cases i <;> simp [fieldG, fieldX4, fieldY4, fieldN, formR]

/-- A word is known by its group and its low byte where its bits 11:8 are known. -/
theorem word_eq_formI (w : Word) (g : Nibble) (nn : Byte) (hg : fieldG w = g) (hn : fieldNN w = nn) :
    w = formI g (fieldX4 w) nn := by
  rw [← hg, ← hn, formI_fields]

theorem word_eq_formR (w : Word) (g n : Nibble) (hg : fieldG w = g) (hn : fieldN w = n) :
    w = formR g (fieldX4 w) (fieldY4 w) n := by
  rw [← hg, ← hn, formR_fields]

/-! ### Masked words -/

theorem mask_F000 (w : Word) : w &&& 0xF000#16 = formA (fieldG w) 0 := by
  ext i hi; interval_cases i <;> simp [fieldG, formA]

theorem mask_F0FF (w : Word) : w &&& 0xF0FF#16 = formI (fieldG w) 0 (fieldNN w) := by
  ext i hi; interval_cases i <;> simp [fieldG, fieldNN, formI]

theorem mask_F00F (w : Word) : w &&& 0xF00F#16 = formR (fieldG w) 0 0 (fieldN w) := by
  ext i hi; interval_cases i <;> simp [fieldG, fieldN, formR]

theorem formA_zero_inj (g h : Nibble) : formA g 0 = formA h 0 ↔ g = h :=
  ⟨fun e => by simpa using congrArg fieldG e, fun e => by rw [e]⟩

theorem formI_zero_inj (g h : Nibble) (a b : Byte) : formI g 0 a = formI h 0 b ↔ g = h ∧ a = b :=
  ⟨fun e => ⟨by simpa using congrArg fieldG e, by simpa using congrArg fieldNN e⟩, fun ⟨e, f⟩ => by rw [e, f]⟩

theorem formR_zero_inj (g h a b : Nibble) : formR g 0 0 a = formR h 0 0 b ↔ g = h ∧ a = b :=
  ⟨fun e => ⟨by simpa using congrArg fieldG e, by simpa using congrArg fieldN e⟩, fun ⟨e, f⟩ => by rw [e, f]⟩

/-- A word in a row of mask 0xF000: its group is the row's. -/
theorem mask_F000_eq (w : Word) (g : Nibble) : w &&& 0xF000#16 = formA g 0 ↔ fieldG w = g := by
  rw [mask_F000, formA_zero_inj]

/-- A word in a row of mask 0xF0FF: its group and low byte are the row's. -/
theorem mask_F0FF_eq (w : Word) (g : Nibble) (nn : Byte) :
    w &&& 0xF0FF#16 = formI g 0 nn ↔ fieldG w = g ∧ fieldNN w = nn := by
  rw [mask_F0FF, formI_zero_inj]

/-- A word in a row of mask 0xF00F: its group and low nibble are the row's. -/
theorem mask_F00F_eq (w : Word) (g n : Nibble) :
    w &&& 0xF00F#16 = formR g 0 0 n ↔ fieldG w = g ∧ fieldN w = n := by
  rw [mask_F00F, formR_zero_inj]

/-! ### Bytes of a word -/

@[simp] theorem wordOfBytes_bytesOfWord (w : Word) : wordOfBytes ((w >>> 8).setWidth 8) (w.setWidth 8) = w := by
  ext i hi; interval_cases i <;> simp [wordOfBytes]

theorem wordOfBytes_high (hi lo : Byte) : (wordOfBytes hi lo >>> 8).setWidth 8 = hi := by
  ext i hi; interval_cases i <;> simp [wordOfBytes]

theorem wordOfBytes_low (hi lo : Byte) : (wordOfBytes hi lo).setWidth 8 = lo := by
  ext i hi; interval_cases i <;> simp [wordOfBytes]

theorem wordOfBytes_toNat (hi lo : Byte) : (wordOfBytes hi lo).toNat = 256 * hi.toNat + lo.toNat := by
  have h := hi.isLt
  have l := lo.isLt
  have e : hi.toNat <<< 8 ||| lo.toNat = hi.toNat <<< 8 + lo.toNat := (Nat.shiftLeft_add_eq_or_of_lt l hi.toNat).symm
  have m : hi.toNat <<< 8 % 65536 = hi.toNat <<< 8 := Nat.mod_eq_of_lt (by rw [Nat.shiftLeft_eq]; omega)
  simp only [wordOfBytes, BitVec.toNat_or, BitVec.toNat_shiftLeft, BitVec.toNat_setWidth, Nat.reducePow,
    Nat.mod_eq_of_lt (show hi.toNat < 65536 by omega), Nat.mod_eq_of_lt (show lo.toNat < 65536 by omega), m, e]
  rw [Nat.shiftLeft_eq]; omega

end Sys2Proof
end

