-- ==== Sys2Proof/Laws/OpcodeMap.lean ====
section
/-! SUPPORT. What it is for a word to match a row of the opcode map, by the row's mask (30_encoding.md R81, R77). -/

namespace Sys2Proof.Machine

/-- A row of mask 0xF000 asks for its group. -/
theorem rowMatches_F000 (name : String) (v w : Word) (g : Nibble) (hv : v = formA g 0) :
    rowMatches (mapRow name v 0xF000) w = (fieldG w == g) := by
  subst hv
  simp only [rowMatches, mapRow, Option.any_none, Bool.or_false]
  rw [Bool.eq_iff_iff, beq_iff_eq, beq_iff_eq]
  exact mask_F000_eq w g

/-- A row of mask 0xF0FF asks for its group and low byte. -/
theorem rowMatches_F0FF (name : String) (v w : Word) (g : Nibble) (nn : Byte) (hv : v = formI g 0 nn) :
    rowMatches (mapRow name v 0xF0FF) w = (fieldG w == g && fieldNN w == nn) := by
  subst hv
  simp only [rowMatches, mapRow, Option.any_none, Bool.or_false]
  rw [Bool.eq_iff_iff, Bool.and_eq_true, beq_iff_eq, beq_iff_eq, beq_iff_eq]
  exact mask_F0FF_eq w g nn

/-- A row of mask 0xF00F asks for its group and low nibble. -/
theorem rowMatches_F00F (name : String) (v w : Word) (g n : Nibble) (hv : v = formR g 0 0 n) :
    rowMatches (mapRow name v 0xF00F) w = (fieldG w == g && fieldN w == n) := by
  subst hv
  simp only [rowMatches, mapRow, Option.any_none, Bool.or_false]
  rw [Bool.eq_iff_iff, Bool.and_eq_true, beq_iff_eq, beq_iff_eq, beq_iff_eq]
  exact mask_F00F_eq w g n

/-- The rows of groups 5 and 9 ask for their group and an N that the group allows (R77). -/
theorem rowMatches_loose (name : String) (v w : Word) (g : Nibble) (hv : v = formA g 0) :
    rowMatches ⟨name, v, 0xF00F, some 0xF000⟩ w = (fieldG w == g && subKeyOk (fieldN w)) := by
  have hr : v = formR g 0 0 0 := by rw [hv]; simp [formA, formR]
  have h1 : (w &&& 0xF00F = v) ↔ fieldG w = g ∧ fieldN w = 0 := by rw [hr]; exact mask_F00F_eq w g 0
  have h2 : (w &&& 0xF000 = v) ↔ fieldG w = g := by rw [hv]; exact mask_F000_eq w g
  simp only [rowMatches, Option.any_some, subKeyOk]
  rw [Bool.eq_iff_iff]
  simp only [Bool.or_eq_true, Bool.and_eq_true, beq_iff_eq, h1, h2]
  tauto

/-- The group is one of sixteen. -/
theorem fieldG_cases (w : Word) :
    fieldG w = 0 ∨ fieldG w = 1 ∨ fieldG w = 2 ∨ fieldG w = 3 ∨ fieldG w = 4 ∨ fieldG w = 5 ∨ fieldG w = 6 ∨
    fieldG w = 7 ∨ fieldG w = 8 ∨ fieldG w = 9 ∨ fieldG w = 10 ∨ fieldG w = 11 ∨ fieldG w = 12 ∨ fieldG w = 13 ∨
    fieldG w = 14 ∨ fieldG w = 15 := by
  generalize fieldG w = g
  revert g
  decide

end Sys2Proof.Machine
end

