-- ==== Sys2Proof/Laws/Decode.lean ====
section
/-! SUPPORT. What the decoder can answer, group by group (30_encoding.md R74 to R77). -/

namespace Sys2Proof

open Sys2Proof.Machine

/-- Group 0 by its low byte (R75). -/
theorem decodeGroup0_cases (op : Word) :
    (fieldNN op = 0xE0#8 ∧ decodeGroup0 op = .cls (fieldX4 op)) ∨
    (fieldNN op = 0xEE#8 ∧ decodeGroup0 op = .ret (fieldX4 op)) ∨
    (fieldNN op ≠ 0xE0#8 ∧ fieldNN op ≠ 0xEE#8 ∧
      decodeGroup0 op = .nop op) := by
  rw [decodeGroup0]
  split <;> simp_all

/-- Group 8 by its low nibble (R75). -/
theorem decodeGroup8_cases (op : Word) :
    (fieldN op = 0x0#4 ∧ decodeGroup8 op = .ldReg (fieldX op) (fieldY op)) ∨
    (fieldN op = 0x1#4 ∧ decodeGroup8 op = .orReg (fieldX op) (fieldY op)) ∨
    (fieldN op = 0x2#4 ∧ decodeGroup8 op = .andReg (fieldX op) (fieldY op)) ∨
    (fieldN op = 0x3#4 ∧ decodeGroup8 op = .xorReg (fieldX op) (fieldY op)) ∨
    (fieldN op = 0x4#4 ∧ decodeGroup8 op = .addReg (fieldX op) (fieldY op)) ∨
    (fieldN op = 0x5#4 ∧ decodeGroup8 op = .sub (fieldX op) (fieldY op)) ∨
    (fieldN op = 0x6#4 ∧ decodeGroup8 op = .shr (fieldX op) (fieldY4 op)) ∨
    (fieldN op = 0x7#4 ∧ decodeGroup8 op = .subn (fieldX op) (fieldY op)) ∨
    (fieldN op = 0xE#4 ∧ decodeGroup8 op = .shl (fieldX op) (fieldY4 op)) ∨
    (fieldN op ≠ 0x0#4 ∧ fieldN op ≠ 0x1#4 ∧ fieldN op ≠ 0x2#4 ∧ fieldN op ≠ 0x3#4 ∧ fieldN op ≠ 0x4#4 ∧ fieldN op ≠ 0x5#4 ∧ fieldN op ≠ 0x6#4 ∧ fieldN op ≠ 0x7#4 ∧ fieldN op ≠ 0xE#4 ∧
      decodeGroup8 op = .nop op) := by
  rw [decodeGroup8]
  split <;> simp_all

/-- Group E by its low byte (R75). -/
theorem decodeGroupE_cases (op : Word) :
    (fieldNN op = 0x9E#8 ∧ decodeGroupE op = .skp (fieldX op)) ∨
    (fieldNN op = 0xA1#8 ∧ decodeGroupE op = .sknp (fieldX op)) ∨
    (fieldNN op ≠ 0x9E#8 ∧ fieldNN op ≠ 0xA1#8 ∧
      decodeGroupE op = .nop op) := by
  rw [decodeGroupE]
  split <;> simp_all

/-- Group F by its low byte (R75). -/
theorem decodeGroupF_cases (op : Word) :
    (fieldNN op = 0x7#8 ∧ decodeGroupF op = .ldVxDt (fieldX op)) ∨
    (fieldNN op = 0xA#8 ∧ decodeGroupF op = .ldVxK (fieldX op)) ∨
    (fieldNN op = 0x15#8 ∧ decodeGroupF op = .ldDtVx (fieldX op)) ∨
    (fieldNN op = 0x18#8 ∧ decodeGroupF op = .ldStVx (fieldX op)) ∨
    (fieldNN op = 0x1E#8 ∧ decodeGroupF op = .addI (fieldX op)) ∨
    (fieldNN op = 0x29#8 ∧ decodeGroupF op = .ldF (fieldX op)) ∨
    (fieldNN op = 0x33#8 ∧ decodeGroupF op = .ldB (fieldX op)) ∨
    (fieldNN op = 0x55#8 ∧ decodeGroupF op = .ldMemVx (fieldX op)) ∨
    (fieldNN op = 0x65#8 ∧ decodeGroupF op = .ldVxMem (fieldX op)) ∨
    (fieldNN op ≠ 0x7#8 ∧ fieldNN op ≠ 0xA#8 ∧ fieldNN op ≠ 0x15#8 ∧ fieldNN op ≠ 0x18#8 ∧ fieldNN op ≠ 0x1E#8 ∧ fieldNN op ≠ 0x29#8 ∧ fieldNN op ≠ 0x33#8 ∧ fieldNN op ≠ 0x55#8 ∧ fieldNN op ≠ 0x65#8 ∧
      decodeGroupF op = .nop op) := by
  rw [decodeGroupF]
  split <;> simp_all

/-- Group 5 by N and GROUP59_STRICT (R77). -/
theorem decodeGroup5_cases (op : Word) :
    (subKeyOk (fieldN op) = true ∧ decodeGroup5 op = .seReg (fieldX op) (fieldY op) (fieldN op)) ∨
    (subKeyOk (fieldN op) = false ∧ decodeGroup5 op = .nop op) := by
  rw [decodeGroup5]
  split <;> simp_all

/-- Group 9 by N and GROUP59_STRICT (R77). -/
theorem decodeGroup9_cases (op : Word) :
    (subKeyOk (fieldN op) = true ∧ decodeGroup9 op = .sneReg (fieldX op) (fieldY op) (fieldN op)) ∨
    (subKeyOk (fieldN op) = false ∧ decodeGroup9 op = .nop op) := by
  rw [decodeGroup9]
  split <;> simp_all

end Sys2Proof
end

