-- ==== Sys2Proof/Laws/Display.lean ====
section
/-! SUPPORT. Pixels: a read after a write, and the blank buffer (44_display.md R180). -/

namespace Sys2Proof.Machine

@[simp] theorem pixel_setPixel (f : Frame) (x u : Fin 64) (y v : Fin 32) (b : Bool) :
    pixel (setPixel f x y b) u v = if u = x ∧ v = y then b else pixel f u v := by
  simp only [pixel, setPixel, Fin.getElem_fin, Vector.getElem_set, Fin.ext_iff]
  by_cases hy : (y : Nat) = v <;> by_cases hx : (x : Nat) = u <;>
    simp [hy, hx, eq_comm]

@[simp] theorem pixel_blankFrame (x : Fin 64) (y : Fin 32) : pixel blankFrame x y = false := by
  simp [pixel, blankFrame]

/-- A buffer is its pixels. -/
theorem frame_ext (f g : Frame) (h : ∀ x y, pixel f x y = pixel g x y) : f = g := by
  refine Vector.ext fun i hi => Vector.ext fun j hj => ?_
  simpa [pixel] using h ⟨j, hj⟩ ⟨i, hi⟩

theorem columnAt_val (x0 c : Nat) : (columnAt x0 c).val = (x0 + c) % 64 := rfl

theorem rowAt_val (y0 r : Nat) : (rowAt y0 r).val = (y0 + r) % 32 := rfl

/-- One pixel of a draw: that pixel is XORed, every other one is kept, and a collision is collected. -/
theorem pixel_drawPixel (acc : Frame × Bool) (x u : Fin 64) (y v : Fin 32) (bit : Bool) :
    pixel (drawPixel acc x y bit).1 u v =
      if u = x ∧ v = y then (pixel acc.1 x y ^^ bit) else pixel acc.1 u v := by
  simp [drawPixel]

theorem hit_drawPixel (acc : Frame × Bool) (x : Fin 64) (y : Fin 32) (bit : Bool) :
    (drawPixel acc x y bit).2 = (acc.2 || (pixel acc.1 x y && bit)) := rfl

/-! ### A whole sprite (44_display.md R182) -/

theorem columnAt_inj (x0 c d : Nat) (hc : c < 8) (hd : d < 8) (h : columnAt x0 c = columnAt x0 d) : c = d := by
  have := congrArg Fin.val h
  rw [columnAt_val, columnAt_val] at this
  omega

theorem rowAt_inj (y0 r q : Nat) (hr : r < 32) (hq : q < 32) (h : rowAt y0 r = rowAt y0 q) : r = q := by
  have := congrArg Fin.val h
  rw [rowAt_val, rowAt_val] at this
  omega

/-- The first `n` columns of a sprite's row light the pixel in column `u`. -/
def rowLights (x0 : Nat) (b : Byte) (n : Nat) (u : Fin 64) : Prop :=
  ∃ c < n, u = columnAt x0 c ∧ spriteBit b c = true

theorem rowLights_succ (x0 : Nat) (b : Byte) (n : Nat) (u : Fin 64) :
    rowLights x0 b (n + 1) u ↔ rowLights x0 b n u ∨ (u = columnAt x0 n ∧ spriteBit b n = true) := by
  simp only [rowLights]
  constructor
  · rintro ⟨c, hc, h⟩
    rcases Nat.lt_succ_iff_lt_or_eq.mp hc with hc | rfl
    · exact .inl ⟨c, hc, h⟩
    · exact .inr h
  · rintro (⟨c, hc, h⟩ | h)
    · exact ⟨c, by omega, h⟩
    · exact ⟨n, by omega, h⟩

/-- The first `n` columns of a sprite's row, drawn: the lit pixels of that row are inverted, every other one is kept,
and a collision is a lit pixel that was on. -/
theorem drawRow_upTo (acc : Frame × Bool) (x0 : Nat) (y : Fin 32) (b : Byte) (n : Nat) (hn : n ≤ 8) :
    let r := (List.range n).foldl (fun acc c => drawPixel acc (columnAt x0 c) y (spriteBit b c)) acc
    (∀ u v, pixel r.1 u v = true ↔ ¬(pixel acc.1 u v = true ↔ (v = y ∧ rowLights x0 b n u))) ∧
    (r.2 = true ↔ acc.2 = true ∨ ∃ u, pixel acc.1 u y = true ∧ rowLights x0 b n u) := by
  induction n with
  | zero => simp [rowLights]
  | succ n ih =>
    obtain ⟨i1, i2⟩ := ih (by omega)
    simp only [List.range_succ, List.foldl_append, List.foldl_cons, List.foldl_nil]
    generalize (List.range n).foldl (fun acc c => drawPixel acc (columnAt x0 c) y (spriteBit b c)) acc = r at i1 i2
    have fresh : ¬rowLights x0 b n (columnAt x0 n) := by
      rintro ⟨c, hc, h, -⟩
      have := columnAt_inj x0 n c (by omega) (by omega) h
      omega
    have old : pixel r.1 (columnAt x0 n) y = pixel acc.1 (columnAt x0 n) y := by
      rw [Bool.eq_iff_iff, i1]; simp [fresh]
    refine ⟨fun u v => ?_, ?_⟩
    · rw [pixel_drawPixel, old, rowLights_succ]
      split
      · rename_i h
        obtain ⟨rfl, rfl⟩ := h
        cases pixel acc.1 (columnAt x0 n) v <;> cases spriteBit b n <;> simp [fresh]
      · rename_i h
        have : (v = y ∧ (rowLights x0 b n u ∨ (u = columnAt x0 n ∧ spriteBit b n = true))) ↔
            (v = y ∧ rowLights x0 b n u) :=
          ⟨fun ⟨hv, hu⟩ => ⟨hv, hu.resolve_right fun k => h ⟨k.1, hv⟩⟩, fun ⟨hv, hu⟩ => ⟨hv, .inl hu⟩⟩
        rw [i1, this]
    · rw [hit_drawPixel, old, Bool.or_eq_true, Bool.and_eq_true, i2, or_assoc]
      refine or_congr_right ⟨?_, ?_⟩
      · rintro (⟨u, h, k⟩ | ⟨h, k⟩)
        · exact ⟨u, h, (rowLights_succ ..).mpr (.inl k)⟩
        · exact ⟨_, h, (rowLights_succ ..).mpr (.inr ⟨rfl, k⟩)⟩
      · rintro ⟨u, h, k⟩
        rcases (rowLights_succ ..).mp k with k | ⟨e, k⟩
        · exact .inl ⟨u, h, k⟩
        · exact .inr ⟨e ▸ h, k⟩

theorem drawRow_spec (acc : Frame × Bool) (x0 : Nat) (y : Fin 32) (b : Byte) :
    (∀ u v, pixel (drawRow acc x0 y b).1 u v = true ↔ ¬(pixel acc.1 u v = true ↔ (v = y ∧ rowLights x0 b 8 u))) ∧
    ((drawRow acc x0 y b).2 = true ↔ acc.2 = true ∨ ∃ u, pixel acc.1 u y = true ∧ rowLights x0 b 8 u) :=
  drawRow_upTo acc x0 y b 8 (Nat.le_refl 8)

/-- The rows `bs` of a sprite, from row `r` on, light the pixel in column `u` and row `v`. -/
def rowsLight (x0 y0 r : Nat) : List Byte → Fin 64 → Fin 32 → Prop
  | [], _, _ => False
  | b :: bs, u, v => (v = rowAt y0 r ∧ rowLights x0 b 8 u) ∨ rowsLight x0 y0 (r + 1) bs u v

theorem rowsLight_iff (x0 y0 r : Nat) (bs : List Byte) (u : Fin 64) (v : Fin 32) :
    rowsLight x0 y0 r bs u v ↔ ∃ j, ∃ h : j < bs.length, v = rowAt y0 (r + j) ∧ rowLights x0 bs[j] 8 u := by
  induction bs generalizing r with
  | nil => simp [rowsLight]
  | cons b bs ih =>
    rw [rowsLight, ih]
    constructor
    · rintro (h | ⟨j, h, hv, hu⟩)
      · exact ⟨0, by simp, h⟩
      · exact ⟨j + 1, by simpa using h, by rw [hv, Nat.add_right_comm, Nat.add_assoc], by simpa using hu⟩
    · rintro ⟨j, h, hv, hu⟩
      cases j with
      | zero => exact .inl ⟨hv, hu⟩
      | succ j => exact .inr ⟨j, by simpa using h, by rw [hv, Nat.add_right_comm, Nat.add_assoc], by simpa using hu⟩

/-- Rows of a sprite, drawn: the lit pixels are inverted, every other one is kept, and a collision is a lit pixel that
was on. No pixel is visited twice in fewer than 33 rows (R182 (e)). -/
theorem drawRows_spec (x0 y0 : Nat) (bs : List Byte) (r : Nat) (acc : Frame × Bool) (hr : r + bs.length ≤ 32) :
    (∀ u v, pixel (drawRows x0 y0 r bs acc).1 u v = true ↔
      ¬(pixel acc.1 u v = true ↔ rowsLight x0 y0 r bs u v)) ∧
    ((drawRows x0 y0 r bs acc).2 = true ↔
      acc.2 = true ∨ ∃ u v, pixel acc.1 u v = true ∧ rowsLight x0 y0 r bs u v) := by
  induction bs generalizing r acc with
  | nil => simp [drawRows, rowsLight]
  | cons b bs ih =>
    simp only [List.length_cons] at hr
    obtain ⟨i1, i2⟩ := ih (r + 1) (drawRow acc x0 (rowAt y0 r) b) (by omega)
    obtain ⟨p1, p2⟩ := drawRow_spec acc x0 (rowAt y0 r) b
    have apart : ∀ u v, v = rowAt y0 r → ¬rowsLight x0 y0 (r + 1) bs u v := by
      rintro u v rfl h
      obtain ⟨j, hj, hv, -⟩ := (rowsLight_iff ..).mp h
      have := rowAt_inj y0 _ _ (by omega) (by omega) hv
      omega
    have same : ∀ u v, rowsLight x0 y0 (r + 1) bs u v →
        (pixel (drawRow acc x0 (rowAt y0 r) b).1 u v = true ↔ pixel acc.1 u v = true) := by
      intro u v h
      have : ¬(v = rowAt y0 r ∧ rowLights x0 b 8 u) := fun k => apart u v k.1 h
      rw [p1]
      by_cases hp : pixel acc.1 u v = true <;> simp [hp, this]
    rw [drawRows]
    refine ⟨fun u v => ?_, ?_⟩
    · rw [i1, p1, rowsLight]
      by_cases hv : v = rowAt y0 r
      · have := apart u v hv
        by_cases hp : pixel acc.1 u v = true <;> by_cases hu : rowLights x0 b 8 u <;> simp [hv, hu, hv ▸ this]
      · by_cases hp : pixel acc.1 u v = true <;> simp [hp, hv]
    · rw [i2, p2, or_assoc]
      refine or_congr_right ⟨?_, ?_⟩
      · rintro (⟨u, h, k⟩ | ⟨u, v, h, k⟩)
        · exact ⟨u, _, h, .inl ⟨rfl, k⟩⟩
        · exact ⟨u, v, (same u v k).mp h, .inr k⟩
      · rintro ⟨u, v, h, ⟨rfl, k⟩ | k⟩
        · exact .inl ⟨u, h, k⟩
        · exact .inr ⟨u, v, (same u v k).mpr h, k⟩

/-- Everything `drawSprite` does with at most 32 rows. -/
theorem drawSprite_spec (f : Frame) (x0 y0 : Nat) (bs : List Byte) (h : bs.length ≤ 32) :
    (∀ u v, pixel (drawSprite f x0 y0 bs).1 u v = true ↔ ¬(pixel f u v = true ↔ rowsLight x0 y0 0 bs u v)) ∧
    ((drawSprite f x0 y0 bs).2 = true ↔ ∃ u v, pixel f u v = true ∧ rowsLight x0 y0 0 bs u v) := by
  have := drawRows_spec x0 y0 bs 0 (f, false) (by omega)
  simpa [drawSprite] using this

end Sys2Proof.Machine
end

