-- ==== Sys2Proof/Laws/State.lean ====
section
/-! SUPPORT. What each named update does to each field of State, one lemma per field. -/

namespace Sys2Proof.Machine

variable (s : State)

/-! ### setReg -/

@[simp] theorem State.setReg_V (x : RegIx) (b : Byte) : (s.setReg x b).V = s.V.set x b := rfl
@[simp] theorem State.setReg_I (x : RegIx) (b : Byte) : (s.setReg x b).I = s.I := rfl
@[simp] theorem State.setReg_pc (x : RegIx) (b : Byte) : (s.setReg x b).pc = s.pc := rfl
@[simp] theorem State.setReg_stack (x : RegIx) (b : Byte) : (s.setReg x b).stack = s.stack := rfl
@[simp] theorem State.setReg_sp (x : RegIx) (b : Byte) : (s.setReg x b).sp = s.sp := rfl
@[simp] theorem State.setReg_DT (x : RegIx) (b : Byte) : (s.setReg x b).DT = s.DT := rfl
@[simp] theorem State.setReg_ST (x : RegIx) (b : Byte) : (s.setReg x b).ST = s.ST := rfl
@[simp] theorem State.setReg_fb (x : RegIx) (b : Byte) : (s.setReg x b).fb = s.fb := rfl
@[simp] theorem State.setReg_mem (x : RegIx) (b : Byte) : (s.setReg x b).mem = s.mem := rfl
@[simp] theorem State.setReg_mode (x : RegIx) (b : Byte) : (s.setReg x b).mode = s.mode := rfl
@[simp] theorem State.setReg_faultCause (x : RegIx) (b : Byte) : (s.setReg x b).faultCause = s.faultCause := rfl
@[simp] theorem State.setReg_waitX (x : RegIx) (b : Byte) : (s.setReg x b).waitX = s.waitX := rfl
@[simp] theorem State.setReg_keys (x : RegIx) (b : Byte) : (s.setReg x b).keys = s.keys := rfl
@[simp] theorem State.setReg_signal (x : RegIx) (b : Byte) : (s.setReg x b).signal = s.signal := rfl
@[simp] theorem State.setReg_draws (x : RegIx) (b : Byte) : (s.setReg x b).draws = s.draws := rfl
@[simp] theorem State.setReg_pending (x : RegIx) (b : Byte) : (s.setReg x b).pending = s.pending := rfl
@[simp] theorem State.setReg_events (x : RegIx) (b : Byte) : (s.setReg x b).events = s.events := rfl

/-! ### setI -/

@[simp] theorem State.setI_V (w : Word) : (s.setI w).V = s.V := rfl
@[simp] theorem State.setI_I (w : Word) : (s.setI w).I = w := rfl
@[simp] theorem State.setI_pc (w : Word) : (s.setI w).pc = s.pc := rfl
@[simp] theorem State.setI_stack (w : Word) : (s.setI w).stack = s.stack := rfl
@[simp] theorem State.setI_sp (w : Word) : (s.setI w).sp = s.sp := rfl
@[simp] theorem State.setI_DT (w : Word) : (s.setI w).DT = s.DT := rfl
@[simp] theorem State.setI_ST (w : Word) : (s.setI w).ST = s.ST := rfl
@[simp] theorem State.setI_fb (w : Word) : (s.setI w).fb = s.fb := rfl
@[simp] theorem State.setI_mem (w : Word) : (s.setI w).mem = s.mem := rfl
@[simp] theorem State.setI_mode (w : Word) : (s.setI w).mode = s.mode := rfl
@[simp] theorem State.setI_faultCause (w : Word) : (s.setI w).faultCause = s.faultCause := rfl
@[simp] theorem State.setI_waitX (w : Word) : (s.setI w).waitX = s.waitX := rfl
@[simp] theorem State.setI_keys (w : Word) : (s.setI w).keys = s.keys := rfl
@[simp] theorem State.setI_signal (w : Word) : (s.setI w).signal = s.signal := rfl
@[simp] theorem State.setI_draws (w : Word) : (s.setI w).draws = s.draws := rfl
@[simp] theorem State.setI_pending (w : Word) : (s.setI w).pending = s.pending := rfl
@[simp] theorem State.setI_events (w : Word) : (s.setI w).events = s.events := rfl

/-! ### setPc -/

@[simp] theorem State.setPc_V (w : Word) : (s.setPc w).V = s.V := rfl
@[simp] theorem State.setPc_I (w : Word) : (s.setPc w).I = s.I := rfl
@[simp] theorem State.setPc_pc (w : Word) : (s.setPc w).pc = w := rfl
@[simp] theorem State.setPc_stack (w : Word) : (s.setPc w).stack = s.stack := rfl
@[simp] theorem State.setPc_sp (w : Word) : (s.setPc w).sp = s.sp := rfl
@[simp] theorem State.setPc_DT (w : Word) : (s.setPc w).DT = s.DT := rfl
@[simp] theorem State.setPc_ST (w : Word) : (s.setPc w).ST = s.ST := rfl
@[simp] theorem State.setPc_fb (w : Word) : (s.setPc w).fb = s.fb := rfl
@[simp] theorem State.setPc_mem (w : Word) : (s.setPc w).mem = s.mem := rfl
@[simp] theorem State.setPc_mode (w : Word) : (s.setPc w).mode = s.mode := rfl
@[simp] theorem State.setPc_faultCause (w : Word) : (s.setPc w).faultCause = s.faultCause := rfl
@[simp] theorem State.setPc_waitX (w : Word) : (s.setPc w).waitX = s.waitX := rfl
@[simp] theorem State.setPc_keys (w : Word) : (s.setPc w).keys = s.keys := rfl
@[simp] theorem State.setPc_signal (w : Word) : (s.setPc w).signal = s.signal := rfl
@[simp] theorem State.setPc_draws (w : Word) : (s.setPc w).draws = s.draws := rfl
@[simp] theorem State.setPc_pending (w : Word) : (s.setPc w).pending = s.pending := rfl
@[simp] theorem State.setPc_events (w : Word) : (s.setPc w).events = s.events := rfl

/-! ### setDT -/

@[simp] theorem State.setDT_V (b : Byte) : (s.setDT b).V = s.V := rfl
@[simp] theorem State.setDT_I (b : Byte) : (s.setDT b).I = s.I := rfl
@[simp] theorem State.setDT_pc (b : Byte) : (s.setDT b).pc = s.pc := rfl
@[simp] theorem State.setDT_stack (b : Byte) : (s.setDT b).stack = s.stack := rfl
@[simp] theorem State.setDT_sp (b : Byte) : (s.setDT b).sp = s.sp := rfl
@[simp] theorem State.setDT_DT (b : Byte) : (s.setDT b).DT = b := rfl
@[simp] theorem State.setDT_ST (b : Byte) : (s.setDT b).ST = s.ST := rfl
@[simp] theorem State.setDT_fb (b : Byte) : (s.setDT b).fb = s.fb := rfl
@[simp] theorem State.setDT_mem (b : Byte) : (s.setDT b).mem = s.mem := rfl
@[simp] theorem State.setDT_mode (b : Byte) : (s.setDT b).mode = s.mode := rfl
@[simp] theorem State.setDT_faultCause (b : Byte) : (s.setDT b).faultCause = s.faultCause := rfl
@[simp] theorem State.setDT_waitX (b : Byte) : (s.setDT b).waitX = s.waitX := rfl
@[simp] theorem State.setDT_keys (b : Byte) : (s.setDT b).keys = s.keys := rfl
@[simp] theorem State.setDT_signal (b : Byte) : (s.setDT b).signal = s.signal := rfl
@[simp] theorem State.setDT_draws (b : Byte) : (s.setDT b).draws = s.draws := rfl
@[simp] theorem State.setDT_pending (b : Byte) : (s.setDT b).pending = s.pending := rfl
@[simp] theorem State.setDT_events (b : Byte) : (s.setDT b).events = s.events := rfl

/-! ### setST -/

@[simp] theorem State.setST_V (b : Byte) : (s.setST b).V = s.V := rfl
@[simp] theorem State.setST_I (b : Byte) : (s.setST b).I = s.I := rfl
@[simp] theorem State.setST_pc (b : Byte) : (s.setST b).pc = s.pc := rfl
@[simp] theorem State.setST_stack (b : Byte) : (s.setST b).stack = s.stack := rfl
@[simp] theorem State.setST_sp (b : Byte) : (s.setST b).sp = s.sp := rfl
@[simp] theorem State.setST_DT (b : Byte) : (s.setST b).DT = s.DT := rfl
@[simp] theorem State.setST_ST (b : Byte) : (s.setST b).ST = b := rfl
@[simp] theorem State.setST_fb (b : Byte) : (s.setST b).fb = s.fb := rfl
@[simp] theorem State.setST_mem (b : Byte) : (s.setST b).mem = s.mem := rfl
@[simp] theorem State.setST_mode (b : Byte) : (s.setST b).mode = s.mode := rfl
@[simp] theorem State.setST_faultCause (b : Byte) : (s.setST b).faultCause = s.faultCause := rfl
@[simp] theorem State.setST_waitX (b : Byte) : (s.setST b).waitX = s.waitX := rfl
@[simp] theorem State.setST_keys (b : Byte) : (s.setST b).keys = s.keys := rfl
@[simp] theorem State.setST_signal (b : Byte) : (s.setST b).signal = s.signal := rfl
@[simp] theorem State.setST_draws (b : Byte) : (s.setST b).draws = s.draws := rfl
@[simp] theorem State.setST_pending (b : Byte) : (s.setST b).pending = s.pending := rfl
@[simp] theorem State.setST_events (b : Byte) : (s.setST b).events = s.events := rfl

/-! ### setFb -/

@[simp] theorem State.setFb_V (f : Frame) : (s.setFb f).V = s.V := rfl
@[simp] theorem State.setFb_I (f : Frame) : (s.setFb f).I = s.I := rfl
@[simp] theorem State.setFb_pc (f : Frame) : (s.setFb f).pc = s.pc := rfl
@[simp] theorem State.setFb_stack (f : Frame) : (s.setFb f).stack = s.stack := rfl
@[simp] theorem State.setFb_sp (f : Frame) : (s.setFb f).sp = s.sp := rfl
@[simp] theorem State.setFb_DT (f : Frame) : (s.setFb f).DT = s.DT := rfl
@[simp] theorem State.setFb_ST (f : Frame) : (s.setFb f).ST = s.ST := rfl
@[simp] theorem State.setFb_fb (f : Frame) : (s.setFb f).fb = f := rfl
@[simp] theorem State.setFb_mem (f : Frame) : (s.setFb f).mem = s.mem := rfl
@[simp] theorem State.setFb_mode (f : Frame) : (s.setFb f).mode = s.mode := rfl
@[simp] theorem State.setFb_faultCause (f : Frame) : (s.setFb f).faultCause = s.faultCause := rfl
@[simp] theorem State.setFb_waitX (f : Frame) : (s.setFb f).waitX = s.waitX := rfl
@[simp] theorem State.setFb_keys (f : Frame) : (s.setFb f).keys = s.keys := rfl
@[simp] theorem State.setFb_signal (f : Frame) : (s.setFb f).signal = s.signal := rfl
@[simp] theorem State.setFb_draws (f : Frame) : (s.setFb f).draws = s.draws := rfl
@[simp] theorem State.setFb_pending (f : Frame) : (s.setFb f).pending = s.pending := rfl
@[simp] theorem State.setFb_events (f : Frame) : (s.setFb f).events = s.events := rfl

/-! ### setMem -/

@[simp] theorem State.setMem_V (m : Memory) : (s.setMem m).V = s.V := rfl
@[simp] theorem State.setMem_I (m : Memory) : (s.setMem m).I = s.I := rfl
@[simp] theorem State.setMem_pc (m : Memory) : (s.setMem m).pc = s.pc := rfl
@[simp] theorem State.setMem_stack (m : Memory) : (s.setMem m).stack = s.stack := rfl
@[simp] theorem State.setMem_sp (m : Memory) : (s.setMem m).sp = s.sp := rfl
@[simp] theorem State.setMem_DT (m : Memory) : (s.setMem m).DT = s.DT := rfl
@[simp] theorem State.setMem_ST (m : Memory) : (s.setMem m).ST = s.ST := rfl
@[simp] theorem State.setMem_fb (m : Memory) : (s.setMem m).fb = s.fb := rfl
@[simp] theorem State.setMem_mem (m : Memory) : (s.setMem m).mem = m := rfl
@[simp] theorem State.setMem_mode (m : Memory) : (s.setMem m).mode = s.mode := rfl
@[simp] theorem State.setMem_faultCause (m : Memory) : (s.setMem m).faultCause = s.faultCause := rfl
@[simp] theorem State.setMem_waitX (m : Memory) : (s.setMem m).waitX = s.waitX := rfl
@[simp] theorem State.setMem_keys (m : Memory) : (s.setMem m).keys = s.keys := rfl
@[simp] theorem State.setMem_signal (m : Memory) : (s.setMem m).signal = s.signal := rfl
@[simp] theorem State.setMem_draws (m : Memory) : (s.setMem m).draws = s.draws := rfl
@[simp] theorem State.setMem_pending (m : Memory) : (s.setMem m).pending = s.pending := rfl
@[simp] theorem State.setMem_events (m : Memory) : (s.setMem m).events = s.events := rfl

/-! ### setSignal -/

@[simp] theorem State.setSignal_V (g : Signal) : (s.setSignal g).V = s.V := rfl
@[simp] theorem State.setSignal_I (g : Signal) : (s.setSignal g).I = s.I := rfl
@[simp] theorem State.setSignal_pc (g : Signal) : (s.setSignal g).pc = s.pc := rfl
@[simp] theorem State.setSignal_stack (g : Signal) : (s.setSignal g).stack = s.stack := rfl
@[simp] theorem State.setSignal_sp (g : Signal) : (s.setSignal g).sp = s.sp := rfl
@[simp] theorem State.setSignal_DT (g : Signal) : (s.setSignal g).DT = s.DT := rfl
@[simp] theorem State.setSignal_ST (g : Signal) : (s.setSignal g).ST = s.ST := rfl
@[simp] theorem State.setSignal_fb (g : Signal) : (s.setSignal g).fb = s.fb := rfl
@[simp] theorem State.setSignal_mem (g : Signal) : (s.setSignal g).mem = s.mem := rfl
@[simp] theorem State.setSignal_mode (g : Signal) : (s.setSignal g).mode = s.mode := rfl
@[simp] theorem State.setSignal_faultCause (g : Signal) : (s.setSignal g).faultCause = s.faultCause := rfl
@[simp] theorem State.setSignal_waitX (g : Signal) : (s.setSignal g).waitX = s.waitX := rfl
@[simp] theorem State.setSignal_keys (g : Signal) : (s.setSignal g).keys = s.keys := rfl
@[simp] theorem State.setSignal_signal (g : Signal) : (s.setSignal g).signal = g := rfl
@[simp] theorem State.setSignal_draws (g : Signal) : (s.setSignal g).draws = s.draws := rfl
@[simp] theorem State.setSignal_pending (g : Signal) : (s.setSignal g).pending = s.pending := rfl
@[simp] theorem State.setSignal_events (g : Signal) : (s.setSignal g).events = s.events := rfl

/-! ### raiseFault -/

@[simp] theorem State.raiseFault_V (c : FaultCause) : (s.raiseFault c).V = s.V := rfl
@[simp] theorem State.raiseFault_I (c : FaultCause) : (s.raiseFault c).I = s.I := rfl
@[simp] theorem State.raiseFault_pc (c : FaultCause) : (s.raiseFault c).pc = s.pc := rfl
@[simp] theorem State.raiseFault_stack (c : FaultCause) : (s.raiseFault c).stack = s.stack := rfl
@[simp] theorem State.raiseFault_sp (c : FaultCause) : (s.raiseFault c).sp = s.sp := rfl
@[simp] theorem State.raiseFault_DT (c : FaultCause) : (s.raiseFault c).DT = s.DT := rfl
@[simp] theorem State.raiseFault_ST (c : FaultCause) : (s.raiseFault c).ST = s.ST := rfl
@[simp] theorem State.raiseFault_fb (c : FaultCause) : (s.raiseFault c).fb = s.fb := rfl
@[simp] theorem State.raiseFault_mem (c : FaultCause) : (s.raiseFault c).mem = s.mem := rfl
@[simp] theorem State.raiseFault_mode (c : FaultCause) : (s.raiseFault c).mode = .halted := rfl
@[simp] theorem State.raiseFault_faultCause (c : FaultCause) : (s.raiseFault c).faultCause = c := rfl
@[simp] theorem State.raiseFault_waitX (c : FaultCause) : (s.raiseFault c).waitX = s.waitX := rfl
@[simp] theorem State.raiseFault_keys (c : FaultCause) : (s.raiseFault c).keys = s.keys := rfl
@[simp] theorem State.raiseFault_signal (c : FaultCause) : (s.raiseFault c).signal = s.signal := rfl
@[simp] theorem State.raiseFault_draws (c : FaultCause) : (s.raiseFault c).draws = s.draws := rfl
@[simp] theorem State.raiseFault_pending (c : FaultCause) : (s.raiseFault c).pending = s.pending := rfl
@[simp] theorem State.raiseFault_events (c : FaultCause) : (s.raiseFault c).events = s.events := rfl

/-! ### enterWaiting -/

@[simp] theorem State.enterWaiting_V (x : RegIx) : (s.enterWaiting x).V = s.V := rfl
@[simp] theorem State.enterWaiting_I (x : RegIx) : (s.enterWaiting x).I = s.I := rfl
@[simp] theorem State.enterWaiting_pc (x : RegIx) : (s.enterWaiting x).pc = s.pc := rfl
@[simp] theorem State.enterWaiting_stack (x : RegIx) : (s.enterWaiting x).stack = s.stack := rfl
@[simp] theorem State.enterWaiting_sp (x : RegIx) : (s.enterWaiting x).sp = s.sp := rfl
@[simp] theorem State.enterWaiting_DT (x : RegIx) : (s.enterWaiting x).DT = s.DT := rfl
@[simp] theorem State.enterWaiting_ST (x : RegIx) : (s.enterWaiting x).ST = s.ST := rfl
@[simp] theorem State.enterWaiting_fb (x : RegIx) : (s.enterWaiting x).fb = s.fb := rfl
@[simp] theorem State.enterWaiting_mem (x : RegIx) : (s.enterWaiting x).mem = s.mem := rfl
@[simp] theorem State.enterWaiting_mode (x : RegIx) : (s.enterWaiting x).mode = .waiting := rfl
@[simp] theorem State.enterWaiting_faultCause (x : RegIx) : (s.enterWaiting x).faultCause = s.faultCause := rfl
@[simp] theorem State.enterWaiting_waitX (x : RegIx) : (s.enterWaiting x).waitX = x := rfl
@[simp] theorem State.enterWaiting_keys (x : RegIx) : (s.enterWaiting x).keys = s.keys := rfl
@[simp] theorem State.enterWaiting_signal (x : RegIx) : (s.enterWaiting x).signal = s.signal := rfl
@[simp] theorem State.enterWaiting_draws (x : RegIx) : (s.enterWaiting x).draws = s.draws := rfl
@[simp] theorem State.enterWaiting_pending (x : RegIx) : (s.enterWaiting x).pending = s.pending := rfl
@[simp] theorem State.enterWaiting_events (x : RegIx) : (s.enterWaiting x).events = s.events := rfl

/-! ### countDraw -/

@[simp] theorem State.countDraw_V : (s.countDraw).V = s.V := rfl
@[simp] theorem State.countDraw_I : (s.countDraw).I = s.I := rfl
@[simp] theorem State.countDraw_pc : (s.countDraw).pc = s.pc := rfl
@[simp] theorem State.countDraw_stack : (s.countDraw).stack = s.stack := rfl
@[simp] theorem State.countDraw_sp : (s.countDraw).sp = s.sp := rfl
@[simp] theorem State.countDraw_DT : (s.countDraw).DT = s.DT := rfl
@[simp] theorem State.countDraw_ST : (s.countDraw).ST = s.ST := rfl
@[simp] theorem State.countDraw_fb : (s.countDraw).fb = s.fb := rfl
@[simp] theorem State.countDraw_mem : (s.countDraw).mem = s.mem := rfl
@[simp] theorem State.countDraw_mode : (s.countDraw).mode = s.mode := rfl
@[simp] theorem State.countDraw_faultCause : (s.countDraw).faultCause = s.faultCause := rfl
@[simp] theorem State.countDraw_waitX : (s.countDraw).waitX = s.waitX := rfl
@[simp] theorem State.countDraw_keys : (s.countDraw).keys = s.keys := rfl
@[simp] theorem State.countDraw_signal : (s.countDraw).signal = s.signal := rfl
@[simp] theorem State.countDraw_draws : (s.countDraw).draws = s.draws + 1 := rfl
@[simp] theorem State.countDraw_pending : (s.countDraw).pending = s.pending := rfl
@[simp] theorem State.countDraw_events : (s.countDraw).events = s.events := rfl

/-! ### loadRegs -/

@[simp] theorem State.loadRegs_V (a : Nat) (x : RegIx) : (s.loadRegs a x).V = Vector.ofFn fun k => if k ≤ x then Memory.read s.mem (a + k.val) else s.reg k := rfl
@[simp] theorem State.loadRegs_I (a : Nat) (x : RegIx) : (s.loadRegs a x).I = s.I := rfl
@[simp] theorem State.loadRegs_pc (a : Nat) (x : RegIx) : (s.loadRegs a x).pc = s.pc := rfl
@[simp] theorem State.loadRegs_stack (a : Nat) (x : RegIx) : (s.loadRegs a x).stack = s.stack := rfl
@[simp] theorem State.loadRegs_sp (a : Nat) (x : RegIx) : (s.loadRegs a x).sp = s.sp := rfl
@[simp] theorem State.loadRegs_DT (a : Nat) (x : RegIx) : (s.loadRegs a x).DT = s.DT := rfl
@[simp] theorem State.loadRegs_ST (a : Nat) (x : RegIx) : (s.loadRegs a x).ST = s.ST := rfl
@[simp] theorem State.loadRegs_fb (a : Nat) (x : RegIx) : (s.loadRegs a x).fb = s.fb := rfl
@[simp] theorem State.loadRegs_mem (a : Nat) (x : RegIx) : (s.loadRegs a x).mem = s.mem := rfl
@[simp] theorem State.loadRegs_mode (a : Nat) (x : RegIx) : (s.loadRegs a x).mode = s.mode := rfl
@[simp] theorem State.loadRegs_faultCause (a : Nat) (x : RegIx) : (s.loadRegs a x).faultCause = s.faultCause := rfl
@[simp] theorem State.loadRegs_waitX (a : Nat) (x : RegIx) : (s.loadRegs a x).waitX = s.waitX := rfl
@[simp] theorem State.loadRegs_keys (a : Nat) (x : RegIx) : (s.loadRegs a x).keys = s.keys := rfl
@[simp] theorem State.loadRegs_signal (a : Nat) (x : RegIx) : (s.loadRegs a x).signal = s.signal := rfl
@[simp] theorem State.loadRegs_draws (a : Nat) (x : RegIx) : (s.loadRegs a x).draws = s.draws := rfl
@[simp] theorem State.loadRegs_pending (a : Nat) (x : RegIx) : (s.loadRegs a x).pending = s.pending := rfl
@[simp] theorem State.loadRegs_events (a : Nat) (x : RegIx) : (s.loadRegs a x).events = s.events := rfl

/-! ### Registers -/

theorem State.reg_eq (x : RegIx) : s.reg x = s.V[x] := rfl

@[simp] theorem State.reg_setReg (x k : RegIx) (b : Byte) : (s.setReg x b).reg k = if k = x then b else s.reg k := by
  simp only [State.reg, State.setReg, Fin.getElem_fin, Vector.getElem_set, Fin.ext_iff, eq_comm]

theorem State.reg_setFlagThenReg (x k : RegIx) (f r : Byte) :
    (s.setFlagThenReg x f r).reg k = if k = x then r else if k = flagIx then f else s.reg k := by
  simp [State.setFlagThenReg]

@[simp] theorem State.reg_loadRegs (a : Nat) (x k : RegIx) :
    (s.loadRegs a x).reg k = if k ≤ x then Memory.read s.mem (a + k.val) else s.reg k := by
  simp [State.reg, State.loadRegs]

/-- A register is its field: an update that keeps `V` keeps every register. -/
theorem State.reg_congr (t : State) (h : t.V = s.V) (k : RegIx) : t.reg k = s.reg k := by
  simp [State.reg, h]

@[simp] theorem State.reg_setI (w : Word) (k : RegIx) : (s.setI w).reg k = s.reg k := rfl
@[simp] theorem State.reg_setPc (w : Word) (k : RegIx) : (s.setPc w).reg k = s.reg k := rfl
@[simp] theorem State.reg_setDT (b : Byte) (k : RegIx) : (s.setDT b).reg k = s.reg k := rfl
@[simp] theorem State.reg_setST (b : Byte) (k : RegIx) : (s.setST b).reg k = s.reg k := rfl
@[simp] theorem State.reg_setFb (f : Frame) (k : RegIx) : (s.setFb f).reg k = s.reg k := rfl
@[simp] theorem State.reg_setMem (m : Memory) (k : RegIx) : (s.setMem m).reg k = s.reg k := rfl
@[simp] theorem State.reg_setSignal (g : Signal) (k : RegIx) : (s.setSignal g).reg k = s.reg k := rfl
@[simp] theorem State.reg_raiseFault (c : FaultCause) (k : RegIx) : (s.raiseFault c).reg k = s.reg k := rfl
@[simp] theorem State.reg_enterWaiting (x : RegIx) (k : RegIx) : (s.enterWaiting x).reg k = s.reg k := rfl
@[simp] theorem State.reg_countDraw (k : RegIx) : (s.countDraw).reg k = s.reg k := rfl

/-- Two states with the same registers have the same `V`. -/
theorem State.V_ext (t u : State) (h : ∀ k, t.reg k = u.reg k) : t.V = u.V := by
  refine Vector.ext fun i hi => ?_
  simpa [State.reg] using h ⟨i, hi⟩

/-! ### Skips -/

theorem State.skipIf_eq (c : Bool) : s.skipIf c = s.setPc (if c then s.pc + 2 else s.pc) := by
  cases c <;> rfl

end Sys2Proof.Machine
end

