-- ==== Sys2Proof/Laws/Ops.lean ====
section
/-! SUPPORT. What the shared operations can do: the stack, the data range, key queries, flags, faults. -/

namespace Sys2Proof.Machine

/-! ### Stack (10_state.md R25) -/

theorem State.push_eq_none (s : State) (v : Word) : s.push v = none ↔ s.sp = 16 := by
  have := s.sp.isLt
  simp only [State.push]
  split <;> simp [Fin.ext_iff] <;> omega

theorem State.push_of_lt (s : State) (v : Word) (h : s.sp.val < 16) :
    s.push v = some { s with stack := s.stack.set s.sp.val v, sp := ⟨s.sp.val + 1, by omega⟩ } := by
  simp [State.push, h]

theorem State.pop_eq_none (s : State) : s.pop = none ↔ s.sp = 0 := by
  have h0 : s.sp = 0 ↔ s.sp.val = 0 := by rw [Fin.ext_iff]; rfl
  simp only [State.pop, h0]
  split <;> simp only [reduceCtorEq, false_iff, true_iff] <;> omega

theorem State.pop_of_pos (s : State) (h : 0 < s.sp.val) :
    s.pop = some (s.stack[s.sp.val - 1], { s with sp := ⟨s.sp.val - 1, by omega⟩ }) := by
  simp [State.pop, h]

/-! ### Data range (20_memory.md R56) -/

theorem State.dataOk_iff (s : State) (n : Nat) : s.dataOk n = true ↔ n = 0 ∨ s.I.toNat + (n - 1) ≤ 0xFFF := by
  rw [State.dataOk, Bool.or_eq_true, beq_iff_eq, decide_eq_true_eq]; rfl

@[simp] theorem State.length_regsUpTo (s : State) (x : RegIx) : (s.regsUpTo x).length = x.val + 1 := by
  have := x.isLt
  simp only [State.regsUpTo, List.length_take, Vector.length_toList]; omega

theorem State.getElem_regsUpTo (s : State) (x k : RegIx) (h : k.val < (s.regsUpTo x).length) :
    (s.regsUpTo x)[k.val] = s.reg k := by
  simp [State.regsUpTo, State.reg]

/-! ### Keys (00_scope.md R8) -/

theorem keyDown_iff (keys : BitVec 16) (k : Byte) :
    keyDown keys k = true ↔ k.toNat ≤ 15 ∧ keys.getLsbD k.toNat = true := by
  simp [keyDown]

theorem lowestKey_eq_some (keys : BitVec 16) (k : Nat) :
    lowestKey keys = some k ↔ k < 16 ∧ keys.getLsbD k = true ∧ ∀ j < k, keys.getLsbD j = false := by
  simp only [lowestKey, List.find?_range_eq_some, List.mem_range, Bool.not_eq_eq_eq_not, Bool.not_true]
  tauto

theorem lowestKey_eq_none (keys : BitVec 16) : lowestKey keys = none ↔ keys = 0 := by
  constructor
  · intro h
    ext i hi
    have := (List.find?_range_eq_none.mp h) i hi
    simpa [BitVec.getLsbD_eq_getElem hi] using this
  · rintro rfl
    simp [lowestKey]

/-! ### Flags (10_state.md R21) -/

theorem carryFlag_eq (a b : Byte) : carryFlag a b = if 255 < a.toNat + b.toNat then 1 else 0 := by
  simp [carryFlag, flagOf]

theorem shiftedOutLow_eq (a : Byte) : shiftedOutLow a = if a.getLsbD 0 then 1 else 0 := rfl

theorem shiftedOutHigh_eq (a : Byte) : shiftedOutHigh a = if a.getLsbD 7 then 1 else 0 := rfl

theorem noBorrowFlag_of_lt (a b : Byte) (h : b.toNat < a.toNat) : noBorrowFlag a b = 1 := by
  simp [noBorrowFlag, h]

theorem noBorrowFlag_of_gt (a b : Byte) (h : a.toNat < b.toNat) : noBorrowFlag a b = 0 := by
  have : a ≠ b := fun e => by simp [e] at h
  simp [noBorrowFlag, this]; omega

theorem noBorrowFlag_self (a : Byte) : noBorrowFlag a a = subEqualFlag := by
  simp [noBorrowFlag]

/-! ### Timers (60_exceptions.md R222) -/

theorem toNat_decTimer (b : Byte) : (decTimer b).toNat = b.toNat - 1 := by
  by_cases h : b = 0
  · simp [decTimer, h]
  · have : 0 < b.toNat := by
      rcases Nat.eq_zero_or_pos b.toNat with e | e
      · exact absurd (BitVec.eq_of_toNat_eq e) h
      · exact e
    simp only [decTimer, if_neg h]
    bv_omega

/-! ### Parameters (00_scope.md R5) -/

/-- The font lies below LOAD_OFFSET (R5, D2). -/
theorem fontBase_add_le : fontBase + 80 ≤ 0x200 := by
  have := Config.fontBaseArg.isLt
  simp only [fontBase]; omega

/-- SUB_EQUAL_FLAG is 0 or 1 (R5, D8). -/
theorem subEqualFlag_cases : subEqualFlag = 0 ∨ subEqualFlag = 1 := by
  simp only [subEqualFlag]; split <;> simp

end Sys2Proof.Machine
end

