-- ==== Sys2Proof/Laws/Exec.lean ====
section
/-! SUPPORT. What the meanings with more than one outcome answer, one lemma per outcome, in terms of the state alone
(41_control_flow.md R111, R112, 43_index_memory.md R163 to R165, 44_display.md R182, 45_keypad_timers.md R193). -/

namespace Sys2Proof.Machine

variable (s : State)

/-! ### CALL and RET -/

theorem exec_call_of_lt (nnn : Addr12) (h : s.sp.val < 16) :
    exec (.call nnn) s =
      .next { s with stack := s.stack.set s.sp.val s.pc, sp := ⟨s.sp.val + 1, by omega⟩, pc := zextAddr nnn } := by
  simp only [exec, execCall, s.push_of_lt s.pc h]; rfl

theorem exec_call_of_full (nnn : Addr12) (h : s.sp.val = 16) :
    exec (.call nnn) s = .next (s.raiseFault .stackOverflow) := by
  simp only [exec, execCall, (s.push_eq_none s.pc).mpr (Fin.ext h)]

theorem exec_ret_of_pos (z : Nibble) (h : 0 < s.sp.val) :
    exec (.ret z) s =
      .next { s with sp := ⟨s.sp.val - 1, by omega⟩, pc := s.stack[s.sp.val - 1] } := by
  simp only [exec, execRet, s.pop_of_pos h]; rfl

theorem exec_ret_of_empty (z : Nibble) (h : s.sp.val = 0) :
    exec (.ret z) s = .next (s.raiseFault .stackUnderflow) := by
  simp only [exec, execRet, s.pop_eq_none.mpr (Fin.ext h)]

/-! ### Data accesses -/

theorem exec_ldB_of_le (x : RegIx) (h : s.I.toNat ≤ 0xFFD) :
    exec (.ldB x) s = .next (s.setMem (Memory.writeBytes s.mem s.I.toNat (bcdDigits (s.reg x)))) := by
  rw [exec, execLdB, if_pos ((s.dataOk_iff 3).mpr (by omega))]; rfl

theorem exec_ldB_of_gt (x : RegIx) (h : 0xFFD < s.I.toNat) : exec (.ldB x) s = .next (s.raiseFault .dataOob) := by
  rw [exec, execLdB, if_neg (mt (s.dataOk_iff 3).mp (by omega))]

theorem exec_ldMemVx_of_le (x : RegIx) (h : s.I.toNat + x.val ≤ 0xFFF) :
    exec (.ldMemVx x) s = .next (s.setMem (Memory.writeBytes s.mem s.I.toNat (s.regsUpTo x))) := by
  rw [exec, execLdMemVx, if_pos ((s.dataOk_iff _).mpr (by omega))]; rfl

theorem exec_ldMemVx_of_gt (x : RegIx) (h : 0xFFF < s.I.toNat + x.val) :
    exec (.ldMemVx x) s = .next (s.raiseFault .dataOob) := by
  rw [exec, execLdMemVx, if_neg (mt (s.dataOk_iff _).mp (by omega))]

theorem exec_ldVxMem_of_le (x : RegIx) (h : s.I.toNat + x.val ≤ 0xFFF) :
    exec (.ldVxMem x) s = .next (s.loadRegs s.I.toNat x) := by
  rw [exec, execLdVxMem, if_pos ((s.dataOk_iff _).mpr (by omega))]; rfl

theorem exec_ldVxMem_of_gt (x : RegIx) (h : 0xFFF < s.I.toNat + x.val) :
    exec (.ldVxMem x) s = .next (s.raiseFault .dataOob) := by
  rw [exec, execLdVxMem, if_neg (mt (s.dataOk_iff _).mp (by omega))]

theorem exec_drw_of_le (x y : RegIx) (n : Nibble) (h : n = 0 ∨ s.I.toNat + n.toNat - 1 ≤ 0xFFF) :
    exec (.drw x y n) s =
      .next ((s.setFb (drawSprite s.fb (s.reg x).toNat (s.reg y).toNat
          (Memory.readBytes s.mem s.I.toNat n.toNat)).1).setReg flagIx
        (collisionFlag (drawSprite s.fb (s.reg x).toNat (s.reg y).toNat
          (Memory.readBytes s.mem s.I.toNat n.toNat)).2)) := by
  have ok : s.dataOk n.toNat = true := by
    rw [s.dataOk_iff]
    rcases h with rfl | h
    · exact .inl rfl
    · omega
  rw [exec, execDrw, if_pos ok]; rfl

theorem exec_drw_of_gt (x y : RegIx) (n : Nibble) (hn : n ≠ 0) (h : 0xFFF < s.I.toNat + n.toNat - 1) :
    exec (.drw x y n) s = .next (s.raiseFault .dataOob) := by
  have : n.toNat ≠ 0 := fun e => hn (BitVec.eq_of_toNat_eq e)
  rw [exec, execDrw, if_neg (mt (s.dataOk_iff _).mp (by omega))]

/-! ### LD VX, K -/

theorem exec_ldVxK_of_none (x : RegIx) (h : s.keys = 0) : exec (.ldVxK x) s = .next (s.enterWaiting x) := by
  simp only [exec, execLdVxK, (lowestKey_eq_none s.keys).mpr h]

theorem exec_ldVxK_of_some (x : RegIx) (h : s.keys ≠ 0) :
    ∃ k, lowestKey s.keys = some k ∧ exec (.ldVxK x) s = .next (s.setReg x (BitVec.ofNat 8 k)) := by
  obtain ⟨k, hk⟩ := Option.ne_none_iff_exists'.mp (mt (lowestKey_eq_none s.keys).mp h)
  exact ⟨k, hk, by simp only [exec, execLdVxK, hk]⟩

end Sys2Proof.Machine
end

