-- ==== Sys2Proof/Laws/Memory.lean ====
section
/-! SUPPORT. Memory: a read after a write, the canonical form kept, and the same for runs of bytes (20_memory.md R54,
R58). -/

namespace Sys2Proof.Machine

/-! ### One byte -/

/-- Below the first listed address the reset contents are read. -/
theorem Memory.read_below (m : Memory) (lo a : Nat) (h : Memory.wfFrom lo m = true) (ha : a < lo) :
    Memory.read m a = Memory.initial a := by
  induction m generalizing lo with
  | nil => rfl
  | cons c m ih =>
    obtain ⟨a', b⟩ := c
    simp only [Memory.wfFrom, Bool.and_eq_true, decide_eq_true_eq] at h
    rw [Memory.read, if_neg (by omega), ih _ h.2 (by omega)]

/-- The canonical form from a higher address is one from a lower address. -/
theorem Memory.wfFrom_mono (m : Memory) (lo lo' : Nat) (h : Memory.wfFrom lo m = true) (hl : lo' ≤ lo) :
    Memory.wfFrom lo' m = true := by
  cases m with
  | nil => rfl
  | cons c m =>
    obtain ⟨a, b⟩ := c
    simp only [Memory.wfFrom, Bool.and_eq_true, decide_eq_true_eq] at h ⊢
    exact ⟨⟨⟨by omega, h.1.1.2⟩, h.1.2⟩, h.2⟩

/-- A write leaves every other address alone, in any list. -/
theorem Memory.read_write_ne (m : Memory) (a k : Nat) (b : Byte) (hk : k ≠ a) :
    Memory.read (Memory.write m a b) k = Memory.read m k := by
  induction m with
  | nil => simp only [Memory.write]; split <;> simp [Memory.read, hk]
  | cons c m ih =>
    obtain ⟨a', b'⟩ := c
    simp only [Memory.write]
    repeat' split
    all_goals subst_vars
    all_goals simp_all [Memory.read]

theorem Memory.read_write_self_from (m : Memory) (lo a : Nat) (b : Byte) (h : Memory.wfFrom lo m = true) :
    Memory.read (Memory.write m a b) a = b := by
  induction m generalizing lo with
  | nil => simp only [Memory.write]; split <;> simp_all [Memory.read]
  | cons c m ih =>
    obtain ⟨a', b'⟩ := c
    simp only [Memory.wfFrom, Bool.and_eq_true, decide_eq_true_eq] at h
    have below : a ≤ a' → Memory.read m a = Memory.initial a :=
      fun hl => Memory.read_below m (a' + 1) a h.2 (by omega)
    simp only [Memory.write]
    repeat' split
    · rename_i hlt hb
      rw [Memory.read, if_neg (by omega), below (by omega), hb]
    · simp [Memory.read]
    · rename_i ha hb
      rw [below (by omega), hb]
    · simp [Memory.read]
    · rename_i ha
      rw [Memory.read, if_neg ha, ih _ h.2]

/-- A read after a write to the same address gives the byte written. -/
theorem Memory.read_write_self (m : Memory) (a : Nat) (b : Byte) (h : Memory.wf m = true) :
    Memory.read (Memory.write m a b) a = b :=
  Memory.read_write_self_from m 0 a b h

theorem Memory.wfFrom_write (m : Memory) (lo a : Nat) (b : Byte) (h : Memory.wfFrom lo m = true) (hl : lo ≤ a)
    (ha : a ≤ memTop) : Memory.wfFrom lo (Memory.write m a b) = true := by
  induction m generalizing lo with
  | nil => simp only [Memory.write]; split <;> simp_all [Memory.wfFrom]
  | cons c m ih =>
    obtain ⟨a', b'⟩ := c
    have h' := h
    simp only [Memory.wfFrom, Bool.and_eq_true, decide_eq_true_eq, bne_iff_ne] at h
    simp only [Memory.write]
    split
    · rename_i hlt
      split
      · exact h'
      · rename_i hb
        simp only [Memory.wfFrom, Bool.and_eq_true, decide_eq_true_eq, bne_iff_ne]
        exact ⟨⟨⟨hl, ha⟩, hb⟩, ⟨⟨by omega, h.1.1.2⟩, h.1.2⟩, h.2⟩
    · split
      · split
        · exact Memory.wfFrom_mono m (a' + 1) lo h.2 (by omega)
        · rename_i haa hb
          subst haa
          simp only [Memory.wfFrom, Bool.and_eq_true, decide_eq_true_eq, bne_iff_ne]
          exact ⟨⟨⟨hl, ha⟩, hb⟩, h.2⟩
      · simp only [Memory.wfFrom, Bool.and_eq_true, decide_eq_true_eq, bne_iff_ne]
        exact ⟨h.1, ih (a' + 1) h.2 (by omega)⟩

/-- A write inside memory keeps the canonical form. -/
theorem Memory.wf_write (m : Memory) (a : Nat) (b : Byte) (h : Memory.wf m = true) (ha : a ≤ memTop) :
    Memory.wf (Memory.write m a b) = true :=
  Memory.wfFrom_write m 0 a b h (Nat.zero_le a) ha

/-! ### Runs of bytes -/

/-- A run of writes inside memory keeps the canonical form. -/
theorem Memory.wf_writeBytes (bs : List Byte) (m : Memory) (a : Nat) (h : Memory.wf m = true)
    (ha : bs = [] ∨ a + (bs.length - 1) ≤ memTop) : Memory.wf (Memory.writeBytes m a bs) = true := by
  induction bs generalizing m a with
  | nil => exact h
  | cons b bs ih =>
    simp only [reduceCtorEq, List.length_cons, false_or] at ha
    refine ih _ _ (Memory.wf_write m a b h (by omega)) ?_
    cases bs with
    | nil => exact .inl rfl
    | cons _ _ => exact .inr (by simp only [List.length_cons] at ha ⊢; omega)

/-- A run of writes leaves every address outside it alone, in any list. -/
theorem Memory.read_writeBytes_outside (bs : List Byte) (m : Memory) (a k : Nat) (hk : k < a ∨ a + bs.length ≤ k) :
    Memory.read (Memory.writeBytes m a bs) k = Memory.read m k := by
  induction bs generalizing m a with
  | nil => rfl
  | cons b bs ih =>
    simp only [List.length_cons] at hk
    rw [Memory.writeBytes, ih _ _ (by omega), Memory.read_write_ne _ _ _ _ (by omega)]

/-- A run of writes inside memory is read back byte by byte. -/
theorem Memory.read_writeBytes_inside (bs : List Byte) (m : Memory) (a j : Nat) (h : Memory.wf m = true)
    (hj : j < bs.length) (ha : a + (bs.length - 1) ≤ memTop) :
    Memory.read (Memory.writeBytes m a bs) (a + j) = bs[j] := by
  induction bs generalizing m a j with
  | nil => simp at hj
  | cons b bs ih =>
    simp only [List.length_cons] at hj ha
    cases j with
    | zero =>
      rw [Memory.writeBytes, Memory.read_writeBytes_outside _ _ _ _ (by omega)]
      simpa using Memory.read_write_self m a b h
    | succ j =>
      rw [Memory.writeBytes, show a + (j + 1) = a + 1 + j by omega,
        ih _ _ _ (Memory.wf_write m a b h (by omega)) (by omega) (by omega)]
      rfl

@[simp] theorem Memory.length_readBytes (m : Memory) (a n : Nat) : (Memory.readBytes m a n).length = n := by
  simp [Memory.readBytes]

@[simp] theorem Memory.getElem_readBytes (m : Memory) (a n k : Nat) (h : k < (Memory.readBytes m a n).length) :
    (Memory.readBytes m a n)[k] = Memory.read m (a + k) := by
  simp [Memory.readBytes]

/-! ### Fetch -/

/-- In range a fetch gives the word of two bytes; out of range it gives none (R53, R57). -/
theorem Memory.fetch_eq (m : Memory) (a : Word) :
    Memory.fetch m a =
      if a.toNat ≤ 0xFFE then some (wordOfBytes (Memory.read m a.toNat) (Memory.read m (a.toNat + 1))) else none := by
  simp only [Memory.fetch, memTop, Nat.add_one_le_iff, Nat.lt_succ_iff]

theorem Memory.fetch_some (m : Memory) (a : Word) (h : a.toNat ≤ 0xFFE) :
    Memory.fetch m a = some (wordOfBytes (Memory.read m a.toNat) (Memory.read m (a.toNat + 1))) := by
  rw [Memory.fetch_eq, if_pos h]

theorem Memory.fetch_none (m : Memory) (a : Word) (h : 0xFFE < a.toNat) : Memory.fetch m a = none := by
  rw [Memory.fetch_eq, if_neg (by omega)]

/-- Nothing at or above LOAD_OFFSET depends on the font (R5, R51). -/
theorem Memory.initial_above (a : Nat) (h : loadOffset ≤ a) : Memory.initial a = 0 := by
  rw [Memory.initial, if_neg (by omega)]

/-- In the font region the reset contents are the font table (R36, R52). -/
theorem Memory.initial_font (a : Nat) (hb : fontBase + 80 ≤ loadOffset) (h : fontBase ≤ a) (h' : a < fontBase + 80) :
    Memory.initial a = fontTable.getD (a - fontBase) 0 := by
  rw [Memory.initial, if_pos ⟨by omega, h, h'⟩]

/-- Outside the font region the reset contents are zero (R36). -/
theorem Memory.initial_zero (a : Nat) (h : a < fontBase ∨ fontBase + 80 ≤ a) : Memory.initial a = 0 := by
  rw [Memory.initial, if_neg (by omega)]

theorem Memory.wf_nil : Memory.wf [] = true := rfl

end Sys2Proof.Machine
end

