-- ==== Sys2Proof/Laws/PerInstr.lean ====
section
/-! SUPPORT. Per instruction: the encoded word lies in the primary group the opcode map gives it (30_encoding.md R74,
R81). -/

namespace Sys2Proof

/-- The primary group of an instruction (R81). -/
def groupOf : Instr → Nibble
  | .cls _ => 0x0
  | .ret _ => 0x0
  | .jp _ => 0x1
  | .call _ => 0x2
  | .seImm _ _ => 0x3
  | .sneImm _ _ => 0x4
  | .seReg _ _ _ => 0x5
  | .ldImm _ _ => 0x6
  | .addImm _ _ => 0x7
  | .ldReg _ _ => 0x8
  | .orReg _ _ => 0x8
  | .andReg _ _ => 0x8
  | .xorReg _ _ => 0x8
  | .addReg _ _ => 0x8
  | .sub _ _ => 0x8
  | .shr _ _ => 0x8
  | .subn _ _ => 0x8
  | .shl _ _ => 0x8
  | .sneReg _ _ _ => 0x9
  | .ldI _ => 0xA
  | .jpV0 _ => 0xB
  | .rnd _ _ => 0xC
  | .drw _ _ _ => 0xD
  | .skp _ => 0xE
  | .sknp _ => 0xE
  | .ldVxDt _ => 0xF
  | .ldVxK _ => 0xF
  | .ldDtVx _ => 0xF
  | .ldStVx _ => 0xF
  | .addI _ => 0xF
  | .ldF _ => 0xF
  | .ldB _ => 0xF
  | .ldMemVx _ => 0xF
  | .ldVxMem _ => 0xF
  | .nop w => fieldG w

/-- The word of an instruction is in the instruction's group. -/
def Laws.EncodedGroup.Statement (i : Instr) : Prop := fieldG (encode i) = groupOf i

namespace Laws.EncodedGroup

theorem cls (ignored : Nibble) : Statement (.cls ignored) := fieldG_formI _ _ _

theorem ret (ignored : Nibble) : Statement (.ret ignored) := fieldG_formI _ _ _

theorem jp (nnn : Addr12) : Statement (.jp nnn) := fieldG_formA _ _

theorem call (nnn : Addr12) : Statement (.call nnn) := fieldG_formA _ _

theorem seImm (x : RegIx) (nn : Byte) : Statement (.seImm x nn) := fieldG_formI _ _ _

theorem sneImm (x : RegIx) (nn : Byte) : Statement (.sneImm x nn) := fieldG_formI _ _ _

theorem seReg (x y : RegIx) (n : Nibble) : Statement (.seReg x y n) := fieldG_formR _ _ _ _

theorem ldImm (x : RegIx) (nn : Byte) : Statement (.ldImm x nn) := fieldG_formI _ _ _

theorem addImm (x : RegIx) (nn : Byte) : Statement (.addImm x nn) := fieldG_formI _ _ _

theorem ldReg (x y : RegIx) : Statement (.ldReg x y) := fieldG_formR _ _ _ _

theorem orReg (x y : RegIx) : Statement (.orReg x y) := fieldG_formR _ _ _ _

theorem andReg (x y : RegIx) : Statement (.andReg x y) := fieldG_formR _ _ _ _

theorem xorReg (x y : RegIx) : Statement (.xorReg x y) := fieldG_formR _ _ _ _

theorem addReg (x y : RegIx) : Statement (.addReg x y) := fieldG_formR _ _ _ _

theorem sub (x y : RegIx) : Statement (.sub x y) := fieldG_formR _ _ _ _

theorem shr (x : RegIx) (ignored : Nibble) : Statement (.shr x ignored) := fieldG_formR _ _ _ _

theorem subn (x y : RegIx) : Statement (.subn x y) := fieldG_formR _ _ _ _

theorem shl (x : RegIx) (ignored : Nibble) : Statement (.shl x ignored) := fieldG_formR _ _ _ _

theorem sneReg (x y : RegIx) (n : Nibble) : Statement (.sneReg x y n) := fieldG_formR _ _ _ _

theorem ldI (nnn : Addr12) : Statement (.ldI nnn) := fieldG_formA _ _

theorem jpV0 (nnn : Addr12) : Statement (.jpV0 nnn) := fieldG_formA _ _

theorem rnd (x : RegIx) (nn : Byte) : Statement (.rnd x nn) := fieldG_formI _ _ _

theorem drw (x y : RegIx) (n : Nibble) : Statement (.drw x y n) := fieldG_formR _ _ _ _

theorem skp (x : RegIx) : Statement (.skp x) := fieldG_formI _ _ _

theorem sknp (x : RegIx) : Statement (.sknp x) := fieldG_formI _ _ _

theorem ldVxDt (x : RegIx) : Statement (.ldVxDt x) := fieldG_formI _ _ _

theorem ldVxK (x : RegIx) : Statement (.ldVxK x) := fieldG_formI _ _ _

theorem ldDtVx (x : RegIx) : Statement (.ldDtVx x) := fieldG_formI _ _ _

theorem ldStVx (x : RegIx) : Statement (.ldStVx x) := fieldG_formI _ _ _

theorem addI (x : RegIx) : Statement (.addI x) := fieldG_formI _ _ _

theorem ldF (x : RegIx) : Statement (.ldF x) := fieldG_formI _ _ _

theorem ldB (x : RegIx) : Statement (.ldB x) := fieldG_formI _ _ _

theorem ldMemVx (x : RegIx) : Statement (.ldMemVx x) := fieldG_formI _ _ _

theorem ldVxMem (x : RegIx) : Statement (.ldVxMem x) := fieldG_formI _ _ _

theorem nop (word : Word) : Statement (.nop word) := rfl

end Laws.EncodedGroup

end Sys2Proof
end

