-- ==== Sys2Proof/Laws/Step.lean ====
section
/-! SUPPORT. What a meaning, a cycle and a step can do, said once (40_cycle.md R90 to R94). -/

namespace Sys2Proof.Machine

/-! ### Meanings -/

/-- Every instruction answers a next state. -/
theorem exec_next (i : Instr) (s : State) : ∃ t, exec i s = .next t := by
  cases i <;> simp only [exec, execCls, execRet, execJp, execCall, execSeImm, execSneImm, execSeReg, execSneReg,
    execLdImm, execAddImm, execLdReg, execOrReg, execAndReg, execXorReg, execAddReg, execSub, execShr, execSubn,
    execShl, execRnd, execLdI, execAddI, execLdF, execLdB, execLdMemVx, execLdVxMem, execJpV0, execDrw, execSkp,
    execSknp, execLdVxDt, execLdVxK, execLdDtVx, execLdStVx, execNop] <;> (try split) <;> exact ⟨_, rfl⟩

/-! ### Cycles -/

/-- A cycle in RUNNING either executes the fetched word with `pc` advanced or raises FETCH_OOB (R91). -/
theorem State.runCycle_cases (s : State) :
    (∃ op t, Memory.fetch s.mem s.pc = some op ∧ exec (decode op) (s.setPc (s.pc + 2)) = .next t ∧
      s.runCycle = .next t) ∨
    (0xFFE < s.pc.toNat ∧ s.runCycle = .next (s.raiseFault .fetchOob)) := by
  by_cases h : s.pc.toNat ≤ 0xFFE
  · have hf := Memory.fetch_some s.mem s.pc h
    obtain ⟨t, ht⟩ := exec_next (decode _) (s.setPc (s.pc + 2))
    exact .inl ⟨_, t, hf, ht, by simp only [State.runCycle, hf]; exact ht⟩
  · exact .inr ⟨by omega, by simp [State.runCycle, Memory.fetch_none s.mem s.pc (by omega)]⟩

/-- The poll of WAITING writes the lowest pressed key and runs on, or changes nothing (R92). -/
theorem State.pollCycle_cases (s : State) :
    (∃ k, lowestKey s.keys = some k ∧
      s.pollCycle = { s.setReg s.waitX (BitVec.ofNat 8 k) with mode := .running }) ∨
    (lowestKey s.keys = none ∧ s.pollCycle = s) := by
  rw [State.pollCycle]
  cases lowestKey s.keys <;> simp

/-- What a cycle event can do in each mode. -/
theorem State.onCycle_cases (s : State) :
    ((s.mode = .idle ∨ s.mode = .halted) ∧ s.onCycle = .next s) ∨
    (s.mode = .waiting ∧ s.onCycle = .next (s.pollCycle.setSignal .update)) ∨
    (s.mode = .running ∧ ∃ t, s.runCycle = .next t ∧ s.onCycle = .next (t.setSignal .update)) := by
  cases h : s.mode with
  | idle => exact .inl ⟨.inl rfl, by simp [State.onCycle, h]⟩
  | halted => exact .inl ⟨.inr rfl, by simp [State.onCycle, h]⟩
  | waiting => exact .inr (.inl ⟨rfl, by simp [State.onCycle, h, endCycle]⟩)
  | running =>
    refine .inr (.inr ⟨rfl, ?_⟩)
    obtain ⟨_, t, -, -, ht⟩ | ⟨-, ht⟩ := s.runCycle_cases
    · exact ⟨t, ht, by simp [State.onCycle, h, ht, endCycle]⟩
    · exact ⟨_, ht, by simp [State.onCycle, h, ht, endCycle]⟩

/-! ### Taking an event -/

theorem State.nextEvent_cons (s : State) (e : Event) (rest : List Event) (h : s.pending = e :: rest) :
    s.nextEvent = e := by
  simp [State.nextEvent, h]

theorem State.nextEvent_nil (s : State) (h : s.pending = []) : s.nextEvent = Config.event s.events := by
  simp [State.nextEvent, h]

/-- Taking an event touches only the schedule and the signal. -/
theorem State.takeEvent_eq (s : State) :
    s.takeEvent =
      { s with pending := s.takeEvent.pending, events := s.takeEvent.events, signal := .quiet } := by
  rw [State.takeEvent]
  cases s.pending <;> rfl

theorem State.takeEvent_cons (s : State) (e : Event) (rest : List Event) (h : s.pending = e :: rest) :
    s.takeEvent = { s with pending := rest, signal := .quiet } := by
  simp [State.takeEvent, h]

theorem State.takeEvent_nil (s : State) (h : s.pending = []) :
    s.takeEvent = { s with events := s.events + 1, signal := .quiet } := by
  simp [State.takeEvent, h]

@[simp] theorem State.takeEvent_V (s : State) : s.takeEvent.V = s.V := by
  rw [State.takeEvent_eq]

@[simp] theorem State.takeEvent_I (s : State) : s.takeEvent.I = s.I := by
  rw [State.takeEvent_eq]

@[simp] theorem State.takeEvent_pc (s : State) : s.takeEvent.pc = s.pc := by
  rw [State.takeEvent_eq]

@[simp] theorem State.takeEvent_stack (s : State) : s.takeEvent.stack = s.stack := by
  rw [State.takeEvent_eq]

@[simp] theorem State.takeEvent_sp (s : State) : s.takeEvent.sp = s.sp := by
  rw [State.takeEvent_eq]

@[simp] theorem State.takeEvent_DT (s : State) : s.takeEvent.DT = s.DT := by
  rw [State.takeEvent_eq]

@[simp] theorem State.takeEvent_ST (s : State) : s.takeEvent.ST = s.ST := by
  rw [State.takeEvent_eq]

@[simp] theorem State.takeEvent_fb (s : State) : s.takeEvent.fb = s.fb := by
  rw [State.takeEvent_eq]

@[simp] theorem State.takeEvent_mem (s : State) : s.takeEvent.mem = s.mem := by
  rw [State.takeEvent_eq]

@[simp] theorem State.takeEvent_mode (s : State) : s.takeEvent.mode = s.mode := by
  rw [State.takeEvent_eq]

@[simp] theorem State.takeEvent_faultCause (s : State) : s.takeEvent.faultCause = s.faultCause := by
  rw [State.takeEvent_eq]

@[simp] theorem State.takeEvent_waitX (s : State) : s.takeEvent.waitX = s.waitX := by
  rw [State.takeEvent_eq]

@[simp] theorem State.takeEvent_keys (s : State) : s.takeEvent.keys = s.keys := by
  rw [State.takeEvent_eq]

@[simp] theorem State.takeEvent_draws (s : State) : s.takeEvent.draws = s.draws := by
  rw [State.takeEvent_eq]

@[simp] theorem State.takeEvent_signal (s : State) : s.takeEvent.signal = .quiet := by
  rw [State.takeEvent_eq]

@[simp] theorem State.reg_takeEvent (s : State) (k : RegIx) : s.takeEvent.reg k = s.reg k := by
  rw [State.reg, State.takeEvent_V]; rfl

/-- The signal of a taken event is quiet, so setting it so changes nothing. -/
theorem State.takeEvent_setSignal_quiet (s : State) : { s.takeEvent with signal := .quiet } = s.takeEvent := by
  rw [State.takeEvent]
  cases s.pending <;> rfl

/-! ### Steps -/

theorem step_eq (s : State) : step s = s.takeEvent.onEvent s.nextEvent := rfl

theorem step_cycle (s : State) (h : s.nextEvent = .cycle) : step s = s.takeEvent.onCycle := by
  simp [step, h, State.onEvent]

theorem step_tick (s : State) (h : s.nextEvent = .tick) : step s = .next s.takeEvent.onTick := by
  simp [step, h, State.onEvent]

theorem step_reset (s : State) (h : s.nextEvent = .reset) : step s = .next s.takeEvent.onReset := by
  simp [step, h, State.onEvent]

theorem step_load (s : State) (image : List Byte) (h : s.nextEvent = .load image) :
    step s = s.takeEvent.onLoad image := by
  simp [step, h, State.onEvent]

theorem step_press (s : State) (k : Nat) (h : s.nextEvent = .press k) : step s = .next (s.takeEvent.onKey k true) := by
  simp [step, h, State.onEvent]

theorem step_release (s : State) (k : Nat) (h : s.nextEvent = .release k) :
    step s = .next (s.takeEvent.onKey k false) := by
  simp [step, h, State.onEvent]

/-- Everything a step that answers a next state can have done. -/
theorem step_cases (s t : State) (h : step s = .next t) :
    (s.nextEvent = .reset ∧ t = s.takeEvent.onReset) ∨
    (∃ image, s.nextEvent = .load image ∧ s.mode = .idle ∧ t = s.takeEvent.onLoadIdle image) ∨
    (s.nextEvent = .cycle ∧ s.takeEvent.onCycle = .next t) ∨
    (s.nextEvent = .tick ∧ t = s.takeEvent.onTick) ∨
    (∃ k, s.nextEvent = .press k ∧ t = s.takeEvent.onKey k true) ∨
    (∃ k, s.nextEvent = .release k ∧ t = s.takeEvent.onKey k false) := by
  rw [step] at h
  cases he : s.nextEvent with
  | load image =>
    simp only [he, State.onEvent, State.onLoad, State.takeEvent_mode] at h
    split at h
    · rename_i hm
      injection h with h
      exact .inr (.inl ⟨image, rfl, hm, h.symm⟩)
    · cases h
  | cycle => exact .inr (.inr (.inl ⟨rfl, by simpa [he, State.onEvent] using h⟩))
  | reset => simp only [he, State.onEvent] at h; injection h with h; simp [h]
  | tick => simp only [he, State.onEvent] at h; injection h with h; simp [h]
  | press k => simp only [he, State.onEvent] at h; injection h with h; simp [h]
  | release k => simp only [he, State.onEvent] at h; injection h with h; simp [h]

end Sys2Proof.Machine
end

