-- ==== Sys2Proof/Tests/Slice0.lean ====
section
/-! SUPPORT. Tests on fixed values, taken from spec/95_test_vectors.md and from the examples in the rules (`test_…`), and
for each obligation with hypotheses a state and operands that meet them, one per clause (`witness_…`). -/

open Sys2Proof Sys2Proof.Machine

namespace Sys2Proof.Tests

/-! ### Ill-formed terms are refused (30_encoding.md R76, R77) -/

theorem test_nop_of_an_instruction_word_is_refused :
    (Instr.nop 0x00E0).wellFormed = false ∧ (Instr.nop 0x8124).wellFormed = false := by decide

theorem test_nop_of_an_unresolved_word_is_accepted :
    (Instr.nop 0x801F).wellFormed = true ∧ (Instr.nop 0x0123).wellFormed = true := by decide

theorem test_seReg_with_nonzero_n_is_refused_when_strict (h : group59Strict = true) :
    (Instr.seReg 1 2 3).wellFormed = false := by
  simp [Instr.wellFormed, subKeyOk, h]

theorem test_sneReg_with_nonzero_n_is_refused_when_strict (h : group59Strict = true) :
    (Instr.sneReg 1 2 3).wellFormed = false := by
  simp [Instr.wellFormed, subKeyOk, h]

/-! ### Decoding, the words written out from R81 field by field, the byte at the lower address first -/

theorem test_decode_group0 :
    decodeBytes [0b00000000, 0b11100000] = .ok (.cls 0, []) ∧
    decodeBytes [0b00000101, 0b11101110] = .ok (.ret 5, []) ∧
    decodeBytes [0b00000001, 0b00100011] = .ok (.nop 0x0123, []) := by decide

theorem test_decode_control :
    decodeBytes [0b00011010, 0b10111100] = .ok (.jp 0xABC, []) ∧
    decodeBytes [0b00100100, 0b00000001] = .ok (.call 0x401, []) ∧
    decodeBytes [0b00110011, 0b00101010] = .ok (.seImm 3 0x2A, []) ∧
    decodeBytes [0b01000011, 0b00101011] = .ok (.sneImm 3 0x2B, []) ∧
    decodeBytes [0b01010001, 0b00100000] = .ok (.seReg 1 2 0, []) ∧
    decodeBytes [0b10010001, 0b00100000] = .ok (.sneReg 1 2 0, []) ∧
    decodeBytes [0b10110011, 0b00000001] = .ok (.jpV0 0x301, []) := by decide

theorem test_decode_alu :
    decodeBytes [0b01100011, 0b10101011] = .ok (.ldImm 3 0xAB, []) ∧
    decodeBytes [0b01110011, 0b11111110] = .ok (.addImm 3 0xFE, []) ∧
    decodeBytes [0b10000001, 0b00100000] = .ok (.ldReg 1 2, []) ∧
    decodeBytes [0b10000001, 0b00100001] = .ok (.orReg 1 2, []) ∧
    decodeBytes [0b10000001, 0b00100010] = .ok (.andReg 1 2, []) ∧
    decodeBytes [0b10000001, 0b00100011] = .ok (.xorReg 1 2, []) ∧
    decodeBytes [0b11000011, 0b00001111] = .ok (.rnd 3 0x0F, []) := by decide

theorem test_decode_alu_with_flag :
    decodeBytes [0b10001010, 0b10110100] = .ok (.addReg 0xA 0xB, []) ∧
    decodeBytes [0b10000001, 0b00100101] = .ok (.sub 1 2, []) ∧
    decodeBytes [0b10000001, 0b00100110] = .ok (.shr 1 2, []) ∧
    decodeBytes [0b10000001, 0b00100111] = .ok (.subn 1 2, []) ∧
    decodeBytes [0b10000001, 0b00101110] = .ok (.shl 1 2, []) := by decide

theorem test_decode_index_memory_display :
    decodeBytes [0b10100011, 0b00000001] = .ok (.ldI 0x301, []) ∧
    decodeBytes [0b11010001, 0b00100101] = .ok (.drw 1 2 5, []) ∧
    decodeBytes [0b11110010, 0b00011110] = .ok (.addI 2, []) ∧
    decodeBytes [0b11110010, 0b00101001] = .ok (.ldF 2, []) ∧
    decodeBytes [0b11110010, 0b00110011] = .ok (.ldB 2, []) ∧
    decodeBytes [0b11110010, 0b01010101] = .ok (.ldMemVx 2, []) ∧
    decodeBytes [0b11111111, 0b01100101] = .ok (.ldVxMem 15, []) := by decide

theorem test_decode_keypad_timers :
    decodeBytes [0b11100011, 0b10011110] = .ok (.skp 3, []) ∧
    decodeBytes [0b11100011, 0b10100001] = .ok (.sknp 3, []) ∧
    decodeBytes [0b11110001, 0b00000111] = .ok (.ldVxDt 1, []) ∧
    decodeBytes [0b11110010, 0b00001010] = .ok (.ldVxK 2, []) ∧
    decodeBytes [0b11110000, 0b00010101] = .ok (.ldDtVx 0, []) ∧
    decodeBytes [0b11110100, 0b00011000] = .ok (.ldStVx 4, []) := by decide

theorem test_decode_too_few_bytes :
    decodeBytes [0x12] = .error .fewerThanTwoBytes ∧ decodeBytes [] = .error .fewerThanTwoBytes := by decide

/-! ### One step each (95_test_vectors.md, Part 2) -/

/-- A running machine at 0x200 whose next event is a cycle. -/
def ready : State := { State.reset with pc := 0x200, mode := .running, pending := [.cycle] }

/-- `s` with two registers set. -/
def with2 (s : State) (x : RegIx) (a : Byte) (y : RegIx) (b : Byte) : State := (s.setReg x a).setReg y b

/-- `s` after the cycle that fetches `w`; the reset state where the step does not go on. -/
def ran (s : State) (w : Nat) : State :=
  match step (s.withFetchWord 16 w) with
  | .next t => t
  | .fault _ => State.reset
  | .refused _ => State.reset

theorem test_nop : (ran ready 0x801F).pc = 0x202 ∧ (ran ready 0x801F).signal = .update := by decide

theorem test_jp : (ran ready 0x1FFF).pc = 0xFFF ∧ (ran ready 0x1FFF).mode = .running := by decide

theorem test_call :
    (ran { ready with sp := 15, pc := 0x400 } 0x2500).stack[15] = 0x402 ∧
    (ran { ready with sp := 15, pc := 0x400 } 0x2500).sp = 16 ∧
    (ran { ready with sp := 15, pc := 0x400 } 0x2500).pc = 0x500 := by decide

theorem test_call_overflows :
    (ran { ready with sp := 16, pc := 0x500 } 0x2600).mode = .halted ∧
    (ran { ready with sp := 16, pc := 0x500 } 0x2600).faultCause = .stackOverflow ∧
    (ran { ready with sp := 16, pc := 0x500 } 0x2600).pc = 0x502 := by decide

theorem test_ret :
    (ran { ready with sp := 1, stack := ready.stack.set 0 0x202, pc := 0x400 } 0x00EE).pc = 0x202 ∧
    (ran { ready with sp := 1, stack := ready.stack.set 0 0x202, pc := 0x400 } 0x00EE).sp = 0 := by decide

theorem test_ret_underflows :
    (ran { ready with pc := 0x20C } 0x00EE).faultCause = .stackUnderflow ∧
    (ran { ready with pc := 0x20C } 0x00EE).pc = 0x20E := by decide

theorem test_skips :
    (ran (ready.setReg 3 0x2A) 0x332A).pc = 0x204 ∧ (ran (ready.setReg 3 0x2A) 0x332B).pc = 0x202 ∧
    (ran (ready.setReg 3 0x2A) 0x432A).pc = 0x202 ∧ (ran (ready.setReg 3 0x2A) 0x432B).pc = 0x204 ∧
    (ran (with2 ready 1 7 2 7) 0x5120).pc = 0x204 ∧ (ran (with2 ready 1 7 2 8) 0x5120).pc = 0x202 ∧
    (ran (with2 ready 1 7 2 8) 0x9120).pc = 0x204 ∧ (ran (with2 ready 1 7 2 7) 0x9120).pc = 0x202 := by decide

theorem test_skip_past_the_end : (ran { ready.setReg 3 0x2A with pc := 0xFFC } 0x332A).pc = 0x1000 := by decide

theorem test_jpV0 : (ran (ready.setReg 0 0xFF) 0xBFFF).pc = 0x10FE := by decide

theorem test_loads_and_addImm :
    (ran ready 0x63AB).reg 3 = 0xAB ∧ (ran (ready.setReg 2 0x5A) 0x8120).reg 1 = 0x5A ∧
    (ran (with2 ready 3 0x80 15 1) 0x7380).reg 3 = 0 ∧ (ran (with2 ready 3 0x80 15 1) 0x7380).reg 15 = 1 := by decide

theorem test_logic :
    (ran (with2 ready 1 0xF0 2 0x3C) 0x8121).reg 1 = 0xFC ∧
    (ran (with2 ready 1 0xF0 2 0x3C) 0x8122).reg 1 = 0x30 ∧
    (ran (with2 ready 1 0xF0 2 0x3C) 0x8123).reg 1 = 0xCC ∧ (ran (ready.setReg 15 1) 0x8121).reg 15 = 1 := by decide

theorem test_addReg_reads_vf_before_writing_it :
    (ran (with2 ready 1 0xF0 15 0x20) 0x81F4).reg 1 = 0x10 ∧ (ran (with2 ready 1 0xF0 15 0x20) 0x81F4).reg 15 = 1 := by
  decide

theorem test_addReg_into_vf : (ran (with2 ready 15 0xFF 2 3) 0x8F24).reg 15 = 2 := by decide

theorem test_sub_and_subn :
    (ran (with2 ready 1 0x0A 2 3) 0x8125).reg 1 = 7 ∧ (ran (with2 ready 1 0x0A 2 3) 0x8125).reg 15 = 1 ∧
    (ran (with2 ready 1 0x0A 2 3) 0x8127).reg 1 = 0xF9 ∧ (ran (with2 ready 1 0x0A 2 3) 0x8127).reg 15 = 0 := by decide

theorem test_sub_of_equals : (ran (with2 ready 1 0x42 2 0x42) 0x8125).reg 15 = subEqualFlag := rfl

theorem test_shifts :
    (ran (with2 ready 1 5 2 0xF0) 0x8126).reg 1 = 2 ∧ (ran (with2 ready 1 5 2 0xF0) 0x8126).reg 15 = 1 ∧
    (ran (ready.setReg 1 0x81) 0x812E).reg 1 = 2 ∧ (ran (ready.setReg 1 0x81) 0x812E).reg 15 = 1 := by decide

theorem test_shl_into_vf : (ran (ready.setReg 15 0x81) 0x8F0E).reg 15 = 2 := by decide

theorem test_rnd_masks_the_draw : (ran ready 0xC30F).reg 3 = Config.drawByte 0 &&& 0x0F := rfl

theorem test_rnd_takes_a_draw : (ran ready 0xC30F).draws = 1 := by decide

theorem test_index :
    (ran ready 0xA300).I = 0x300 ∧ (ran ({ ready with I := 0xFFFF }.setReg 1 1) 0xF11E).I = 0 ∧
    (ran ({ ready with I := 0xFFF }.setReg 1 1) 0xF11E).I = 0x1000 := by decide

theorem test_ldF : (ran (ready.setReg 0 10) 0xF029).I = BitVec.ofNat 16 (fontBase + 5 * 10) := rfl

theorem test_ldB :
    (ran ({ ready with I := 0x300 }.setReg 0 0xFE) 0xF033).mem =
      [(0x200, 0xF0), (0x201, 0x33), (0x300, 2), (0x301, 5), (0x302, 4)] := by decide

theorem test_ldB_out_of_range :
    (ran { ready with I := 0xFFE } 0xF033).faultCause = .dataOob ∧
    (ran { ready with I := 0xFFE } 0xF033).mem = [(0x200, 0xF0), (0x201, 0x33)] := by decide

/-- Three registers set, a fourth that is not stored, and `I` at 0x300. -/
def stored : State := { with2 (with2 ready 0 0x11 1 0x22) 2 0x33 3 0x44 with I := 0x300 }

theorem test_ldMemVx :
    (ran stored 0xF255).mem = [(0x200, 0xF2), (0x201, 0x55), (0x300, 0x11), (0x301, 0x22), (0x302, 0x33)] ∧
    (ran stored 0xF255).I = 0x300 := by decide

theorem test_ldVxMem :
    (ran { ready with I := 0x300, mem := [(0x300, 2), (0x301, 5), (0x302, 4), (0x303, 9)] } 0xF265).V.toList =
      [2, 5, 4, 0, 0, 0, 0, 0, 0, 0, 0, 0, 0, 0, 0, 0] := by decide

/-- Row 0xF0 at `I`, drawn at (62, 31) (R182, example). -/
def sprite : State := { with2 ready 1 62 2 31 with I := 0x300, mem := [(0x300, 0xF0)] }

theorem test_drw_wraps :
    (ran sprite 0xD121).fb[31].toList.findIdxs (fun b => b) = [0, 1, 62, 63] ∧
    (ran sprite 0xD121).reg 15 = 0 := by decide

theorem test_drw_collides :
    (ran { sprite with fb := setPixel sprite.fb 0 31 true } 0xD121).fb[31].toList.findIdxs (fun b => b) = [1, 62, 63] ∧
    (ran { sprite with fb := setPixel sprite.fb 0 31 true } 0xD121).reg 15 = 1 := by decide

theorem test_cls : (ran { sprite with fb := setPixel sprite.fb 0 31 true } 0x00E0).fb = State.reset.fb := by decide

theorem test_key_skips :
    (ran { ready.setReg 3 7 with keys := 0x0080, pc := 0x210 } 0xE39E).pc = 0x214 ∧
    (ran { ready.setReg 3 7 with keys := 0x0080, pc := 0x210 } 0xE3A1).pc = 0x212 ∧
    (ran { ready.setReg 3 0x17 with keys := 0xFFFF, pc := 0x210 } 0xE39E).pc = 0x212 ∧
    (ran { ready.setReg 3 0x17 with keys := 0xFFFF, pc := 0x210 } 0xE3A1).pc = 0x214 := by decide

theorem test_ldVxK :
    (ran { ready with keys := 0x0480 } 0xF20A).reg 2 = 7 ∧ (ran { ready with keys := 0x0480 } 0xF20A).mode = .running ∧
    (ran ready 0xF20A).mode = .waiting ∧ (ran ready 0xF20A).waitX = 2 ∧ (ran ready 0xF20A).pc = 0x202 := by decide

theorem test_timers :
    (ran { ready with DT := 0x2A } 0xF107).reg 1 = 0x2A ∧ (ran (ready.setReg 0 3) 0xF015).DT = 3 ∧
    (ran (ready.setReg 4 0x10) 0xF418).ST = 0x10 ∧ (ran (ready.setReg 4 0x10) 0xF418).soundOn = true := by decide

/-! ### Events -/

/-- The reset state with one event to come. -/
def idleWith (e : Event) : State := { State.reset with pending := [e] }

/-- A running machine with one event to come. -/
def runningWith (e : Event) : State := { ready with pending := [e] }

/-- A machine halted by a fault, with one event to come. -/
def haltedWith (e : Event) : State := { ready with mode := .halted, faultCause := .dataOob, pending := [e] }

/-- A machine waiting for a key for register 2, with the given keys down. -/
def waitingWith (keys : BitVec 16) : State := { ready with mode := .waiting, waitX := 2, keys := keys }

theorem test_load :
    step (idleWith (.load [0x12, 0x00])) =
      .next { State.reset with pc := 0x200, mode := .running, mem := [(0x200, 0x12)], signal := .loadOk } := rfl

theorem test_load_in_running_is_refused : step (runningWith (.load [])) = .refused .loadNotIdle := rfl

theorem test_reset_leaves_halted : step (haltedWith .reset) = .next State.reset := rfl

theorem test_tick_stops_at_zero :
    step { haltedWith .tick with ST := 1 } = .next { haltedWith .tick with pending := [] } := rfl

theorem test_poll :
    step (waitingWith 0x1000) =
      .next { ready.setReg 2 0x0C with waitX := 2, keys := 0x1000, pending := [], signal := .update } := rfl

/-! ### The fetch of the first instruction -/

theorem test_withFetchWord_runs_the_word : (ran State.reset 0x6A2F).reg 0xA = 0x2F := by decide

/-! ### Witnesses: the hypotheses of each obligation are met -/

theorem witness_DecodeInvertsEncode :
    (Instr.addReg 15 0).wellFormed = true ∧ (Instr.seReg 1 2 0).wellFormed = true ∧
    (Instr.nop 0xFFFF).wellFormed = true ∧ (Instr.cls 15).wellFormed = true := by decide

theorem witness_DecodeFollowsOpcodeMap :
    mapRow "SUB_VX__VY" 0x8005 0xF00F ∈ opcodeMap ∧ rowMatches (mapRow "SUB_VX__VY" 0x8005 0xF00F) 0x8125 = true ∧
    rowMatches (mapRow "SUB_VX__VY" 0x8005 0xF00F) 0x8127 = false ∧
    (∀ row ∈ opcodeMap, rowMatches row 0x8128 = false) := by decide

theorem witness_NonzeroNInGroupsFiveAndNine :
    fieldN 0x5121 ≠ 0 ∧ fieldG 0x5121 = 5 ∧ fieldN 0x9ABF ≠ 0 ∧ fieldG 0x9ABF = 9 := by decide

theorem witness_FetchIsBigEndian : (0xFFE#16).toNat ≤ 0xFFE := by decide

theorem witness_StoredBytesAreFetched :
    Memory.wf { ready with I := 0xFF0 }.mem = true ∧ { ready with I := 0xFF0 }.I.toNat + (15 : RegIx).val ≤ 0xFFF ∧
    (15 : RegIx).val = (14 : RegIx).val + 1 ∧ (15 : RegIx) ≤ 15 ∧
    (0xFFE#16).toNat = { ready with I := 0xFF0 }.I.toNat + (14 : RegIx).val := by decide

theorem witness_StepRunsDecodedInstruction :
    { ready with pc := 0xFFE }.nextEvent = .cycle ∧ { ready with pc := 0xFFE }.mode = .running ∧
    { ready with pc := 0xFFE }.pc.toNat ≤ 0xFFE ∧
    decodeBytes [Memory.read ready.mem 0xFFE, Memory.read ready.mem 0xFFF] = .ok (.nop 0x0000, []) := by decide

theorem witness_FetchOutOfRangeHalts_event :
    { ready with pc := 0xFFF }.nextEvent = .cycle ∧ { ready with pc := 0xFFF }.mode = .running ∧
    0xFFE < { ready with pc := 0xFFF }.pc.toNat := by decide

theorem witness_FetchOutOfRangeHalts_instruction :
    exec (.nop 0) ready = .next ready ∧ ready.faultCause ≠ .fetchOob := ⟨rfl, by decide⟩

theorem witness_WaitingPollsTheKeypad :
    (waitingWith 0).nextEvent = .cycle ∧ (waitingWith 0).mode = .waiting ∧ (waitingWith 0).keys = 0 ∧
    (waitingWith 0x8000).nextEvent = .cycle ∧ (waitingWith 0x8000).mode = .waiting ∧
    (waitingWith 0x8000).keys.getLsbD 15 = true ∧ (∀ j < 15, (waitingWith 0x8000).keys.getLsbD j = false) ∧
    (waitingWith 0x8001).keys.getLsbD 0 = true ∧ (∀ j < 0, (waitingWith 0x8001).keys.getLsbD j = false) := by decide

theorem witness_IdleAndHaltedCyclesDoNothing :
    (idleWith .cycle).nextEvent = .cycle ∧ (idleWith .cycle).mode = .idle ∧
    (haltedWith .cycle).nextEvent = .cycle ∧ (haltedWith .cycle).mode = .halted := by decide

theorem witness_TickDecrementsBothTimers :
    (idleWith .tick).nextEvent = .tick ∧ (runningWith .tick).nextEvent = .tick ∧ (haltedWith .tick).nextEvent = .tick := by
  decide

theorem witness_KeyChangesSetOneBit :
    (runningWith (.press 15)).nextEvent = .press 15 ∧ (runningWith (.press 16)).nextEvent = .press 16 ∧
    (runningWith (.release 0)).nextEvent = .release 0 ∧ (runningWith (.release 16)).nextEvent = .release 16 := by decide

theorem witness_ResetGivesTheResetState :
    (haltedWith .reset).nextEvent = .reset ∧ (runningWith .reset).nextEvent = .reset := by decide

theorem witness_ResetValues_font : 15 < 16 ∧ 4 < 5 := by decide

theorem witness_ResetValues_zero : fontBase + 80 ≤ 0x200 := fontBase_add_le

/-- The largest image, and one byte more (95_test_vectors.md S6). -/
def image (n : Nat) : List Byte := List.replicate n 0xFF

theorem witness_LoadCopiesTheImage :
    (idleWith (.load (image 3584))).nextEvent = .load (image 3584) ∧ (idleWith (.load (image 3584))).mode = .idle ∧
    (image 3584).length ≤ 3584 ∧ Memory.wf (idleWith (.load (image 3584))).mem = true :=
  ⟨rfl, rfl, Nat.le_of_eq List.length_replicate, rfl⟩

theorem witness_LoadThatDoesNotRun_too_long :
    (idleWith (.load (image 3585))).nextEvent = .load (image 3585) ∧ (idleWith (.load (image 3585))).mode = .idle ∧
    3584 < (image 3585).length :=
  ⟨rfl, rfl, Nat.lt_of_succ_le (Nat.le_of_eq List.length_replicate.symm)⟩

theorem witness_LoadThatDoesNotRun_not_idle :
    (runningWith (.load [])).nextEvent = .load [] ∧ (runningWith (.load [])).mode ≠ .idle := by decide

/-- `ready` meets the invariant. -/
theorem ready_inv : ready.Inv where
  memCanonical := rfl
  causeIffHalted := by decide
  pcBound := by decide
  stackBound := by decide
  idleAsReset h := absurd h (by decide)

theorem witness_StepKeepsInvariant : ready.Inv ∧ ∃ t, step ready = .next t := ⟨ready_inv, _, rfl⟩

theorem witness_OnlyLoadOutsideIdleIsRefused_load :
    ∃ image, (runningWith (.load [])).nextEvent = .load image ∧ (runningWith (.load [])).mode ≠ .idle :=
  ⟨[], rfl, by decide⟩

theorem witness_OnlyLoadOutsideIdleIsRefused_else :
    (∀ image, ready.nextEvent = .load image → ready.mode = .idle) ∧
    (∀ image, (idleWith (.load [])).nextEvent = .load image → (idleWith (.load [])).mode = .idle) :=
  ⟨fun _ h => by simp [ready, State.nextEvent] at h, fun _ _ => rfl⟩

theorem witness_FaultsArePreciseAndOnlyThese_fault :
    faultOf (.call 0x300) { ready with sp := 16 } = .stackOverflow ∧ faultOf (.ret 0) ready = .stackUnderflow ∧
    faultOf (.drw 0 1 1) { ready with I := 0x1000 } = .dataOob ∧
    faultOf (.ldB 0) { ready with I := 0xFFE } = .dataOob ∧
    faultOf (.ldMemVx 1) { ready with I := 0xFFF } = .dataOob ∧
    faultOf (.ldVxMem 15) { ready with I := 0xFF1 } = .dataOob := by decide

theorem witness_FaultsArePreciseAndOnlyThese_none :
    faultOf (.call 0x300) { ready with sp := 15 } = .none ∧ faultOf (.ret 0) { ready with sp := 1 } = .none ∧
    faultOf (.drw 0 1 0) { ready with I := 0xFFFF } = .none ∧ faultOf (.drw 0 1 1) { ready with I := 0xFFF } = .none ∧
    faultOf (.ldB 0) { ready with I := 0xFFD } = .none ∧ faultOf (.ldMemVx 0) { ready with I := 0xFFF } = .none ∧
    faultOf (.ldVxMem 15) { ready with I := 0xFF0 } = .none ∧ ready.mode ≠ .halted := by decide

theorem witness_HaltedIsLeftOnlyByReset :
    (haltedWith .reset).mode = .halted ∧ (haltedWith .reset).nextEvent = .reset ∧
    (haltedWith .tick).mode = .halted ∧ (haltedWith .tick).nextEvent ≠ .reset ∧
    ∃ t, step (haltedWith .tick) = .next t :=
  ⟨rfl, rfl, rfl, by decide, _, rfl⟩

theorem witness_ModeTransitions_reset : ∃ t, step (haltedWith .reset) = .next t ∧ t.mode ≠ (haltedWith .reset).mode :=
  ⟨_, rfl, by decide⟩

theorem witness_ModeTransitions_load :
    ∃ t, step (idleWith (.load [])) = .next t ∧ t.mode ≠ (idleWith (.load [])).mode :=
  ⟨_, rfl, by decide⟩

theorem witness_ModeTransitions_poll : ∃ t, step (waitingWith 1) = .next t ∧ t.mode ≠ (waitingWith 1).mode :=
  ⟨_, rfl, by decide⟩

theorem witness_ModeTransitions_fetch :
    ∃ t, step { ready with pc := 0xFFF } = .next t ∧ t.mode ≠ { ready with pc := 0xFFF }.mode :=
  ⟨_, rfl, by decide⟩

theorem witness_ModeTransitions_fault :
    ∃ t, step { ready with mem := [(0x201, 0xEE)] } = .next t ∧ t.mode ≠ { ready with mem := [(0x201, 0xEE)] }.mode :=
  ⟨_, rfl, by decide⟩

theorem witness_ModeTransitions_wait :
    ∃ t, step { ready with mem := [(0x200, 0xF2), (0x201, 0x0A)] } = .next t ∧ t.mode ≠ ready.mode :=
  ⟨_, rfl, by decide⟩

theorem witness_EachStateHasItsWriters_registers :
    (∃ t, exec (.ldI 0x300) ready = .next t ∧ t.I ≠ ready.I) ∧ (∃ t, exec (.jp 0x300) ready = .next t ∧ t.pc ≠ ready.pc) ∧
    (∃ t, exec (.call 0x300) ready = .next t ∧ t.stack ≠ ready.stack ∧ t.sp ≠ ready.sp) ∧
    (∃ t, exec (.ldDtVx 0) (ready.setReg 0 3) = .next t ∧ t.DT ≠ ready.DT) ∧
    (∃ t, exec (.ldStVx 0) (ready.setReg 0 3) = .next t ∧ t.ST ≠ ready.ST) :=
  ⟨⟨_, rfl, by decide⟩, ⟨_, rfl, by decide⟩, ⟨_, rfl, by decide⟩, ⟨_, rfl, by decide⟩, ⟨_, rfl, by decide⟩⟩

theorem witness_EachStateHasItsWriters_rest :
    (∃ t, exec (.drw 1 2 1) sprite = .next t ∧ t.fb ≠ sprite.fb) ∧
    (∃ t, exec (.ldMemVx 0) stored = .next t ∧ t.mem ≠ stored.mem) ∧
    (∃ t, exec (.ldVxK 2) ready = .next t ∧ t.waitX ≠ ready.waitX ∧ t.mode ≠ ready.mode) ∧
    (∃ t, exec (.ret 0) ready = .next t ∧ t.faultCause ≠ ready.faultCause) ∧
    (∃ t, exec (.rnd 0 0) ready = .next t ∧ t.draws ≠ ready.draws) :=
  ⟨⟨_, rfl, by decide⟩, ⟨_, rfl, by decide⟩, ⟨_, rfl, by decide⟩, ⟨_, rfl, by decide⟩, ⟨_, rfl, by decide⟩⟩

theorem witness_RegistersChangeOnlyAsDestinations :
    (∃ t, exec (.ldImm 3 0xAB) ready = .next t ∧ t.reg 3 ≠ ready.reg 3) ∧
    (∃ t, exec (.shr 1 0) (ready.setReg 1 1) = .next t ∧ t.reg 15 ≠ (ready.setReg 1 1).reg 15) :=
  ⟨⟨_, rfl, by decide⟩, ⟨_, rfl, by decide⟩⟩

theorem witness_InputsReachOnlyTheirReaders :
    (∃ t, exec (.ldImm 3 0xAB) ready = .next t) ∧
    (∀ x, Instr.ldImm 3 0xAB ≠ .skp x ∧ Instr.ldImm 3 0xAB ≠ .sknp x ∧ Instr.ldImm 3 0xAB ≠ .ldVxK x) ∧
    (∀ x nn, Instr.ldImm 3 0xAB ≠ .rnd x nn) ∧ (∀ x, Instr.ldImm 3 0xAB ≠ .ldVxDt x) :=
  ⟨⟨_, rfl⟩, by simp, by simp, by simp⟩

theorem witness_NopOnlyAdvances :
    ready.nextEvent = .cycle ∧ ready.mode = .running ∧ Memory.fetch ready.mem ready.pc = some 0x0000 ∧
    (∀ row ∈ opcodeMap, rowMatches row 0x0000 = false) := by decide

/-- The word clauses of the obligations from JumpSetsPc to StoreTimers, groups 0 to 7, 9 and A to D. -/
theorem witness_word_clauses_low :
    0x0FE0#16 &&& 0xF0FF#16 = 0x00E0#16 ∧ 0x0FEE#16 &&& 0xF0FF#16 = 0x00EE#16 ∧
    0x1FFF#16 &&& 0xF000#16 = 0x1000#16 ∧ 0x2FFF#16 &&& 0xF000#16 = 0x2000#16 ∧
    0x3FFF#16 &&& 0xF000#16 = 0x3000#16 ∧ 0x4FFF#16 &&& 0xF000#16 = 0x4000#16 ∧
    0x5FF0#16 &&& 0xF00F#16 = 0x5000#16 ∧ 0x6FFF#16 &&& 0xF000#16 = 0x6000#16 ∧
    0x7FFF#16 &&& 0xF000#16 = 0x7000#16 ∧ 0x9FF0#16 &&& 0xF00F#16 = 0x9000#16 := by decide

theorem witness_word_clauses_group8 :
    0x8FF0#16 &&& 0xF00F#16 = 0x8000#16 ∧ 0x8FF1#16 &&& 0xF00F#16 = 0x8001#16 ∧
    0x8FF2#16 &&& 0xF00F#16 = 0x8002#16 ∧ 0x8FF3#16 &&& 0xF00F#16 = 0x8003#16 ∧
    0x8FF4#16 &&& 0xF00F#16 = 0x8004#16 ∧ 0x8FF5#16 &&& 0xF00F#16 = 0x8005#16 ∧
    0x8FF6#16 &&& 0xF00F#16 = 0x8006#16 ∧ 0x8FF7#16 &&& 0xF00F#16 = 0x8007#16 ∧
    0x8FFE#16 &&& 0xF00F#16 = 0x800E#16 := by decide

theorem witness_word_clauses_high :
    0xAFFF#16 &&& 0xF000#16 = 0xA000#16 ∧ 0xBFFF#16 &&& 0xF000#16 = 0xB000#16 ∧
    0xCFFF#16 &&& 0xF000#16 = 0xC000#16 ∧ 0xDFFF#16 &&& 0xF000#16 = 0xD000#16 ∧
    0xEF9E#16 &&& 0xF0FF#16 = 0xE09E#16 ∧ 0xEFA1#16 &&& 0xF0FF#16 = 0xE0A1#16 ∧
    0xFF07#16 &&& 0xF0FF#16 = 0xF007#16 ∧ 0xFF0A#16 &&& 0xF0FF#16 = 0xF00A#16 ∧
    0xFF15#16 &&& 0xF0FF#16 = 0xF015#16 := by decide

theorem witness_word_clauses_groupF :
    0xFF18#16 &&& 0xF0FF#16 = 0xF018#16 ∧ 0xFF1E#16 &&& 0xF0FF#16 = 0xF01E#16 ∧
    0xFF29#16 &&& 0xF0FF#16 = 0xF029#16 ∧ 0xFF33#16 &&& 0xF0FF#16 = 0xF033#16 ∧
    0xFF55#16 &&& 0xF0FF#16 = 0xF055#16 ∧ 0xFF65#16 &&& 0xF0FF#16 = 0xF065#16 := by decide

theorem witness_CallPushesPc : { ready with sp := 15 }.sp.val < 16 ∧ { ready with sp := 16 }.sp.val = 16 := by decide

theorem witness_ReturnPopsPc : 0 < { ready with sp := 16 }.sp.val ∧ ready.sp.val = 0 := by decide

theorem witness_CallThenReturnRestoresPc : { ready with sp := 15 }.sp.val < 16 := by decide

theorem witness_SubtractsAreComplementary :
    (14 : RegIx) ≠ 15 ∧ (with2 ready 14 0 15 1).reg 14 ≠ (with2 ready 14 0 15 1).reg 15 := by decide

theorem witness_flag_clauses : (0 : RegIx) ≠ 15 ∧ (14 : RegIx) ≠ 15 := by decide

theorem witness_RandomMasksAFreshDraw : (0x0F#8).getLsbD 4 = false := by decide

theorem witness_BcdStoresThreeDigits :
    { ready with I := 0xFFD }.I.toNat ≤ 0xFFD ∧ Memory.wf { ready with I := 0xFFD }.mem = true ∧
    { ready with I := 0xFFD }.I.toNat + 3 ≤ 0x1000 ∧ 0xFFD < { ready with I := 0xFFE }.I.toNat := by decide

theorem witness_StoreRegistersCopiesUpToX :
    { ready with I := 0xFF0 }.I.toNat + (15 : RegIx).val ≤ 0xFFF ∧ Memory.wf { ready with I := 0xFF0 }.mem = true ∧
    { ready with I := 0xFFF }.I.toNat + (0 : RegIx).val ≤ 0xFFF ∧
    0xFFF < { ready with I := 0xFF1 }.I.toNat + (15 : RegIx).val := by decide

theorem witness_LoadRegistersCopiesUpToX :
    { ready with I := 0xFFF }.I.toNat + (0 : RegIx).val ≤ 0xFFF ∧
    0xFFF < { ready with I := 0x1000 }.I.toNat + (0 : RegIx).val := by decide

theorem witness_StoreThenLoadRoundTrip :
    Memory.wf { ready with I := 0xFF0 }.mem = true ∧ { ready with I := 0xFF0 }.I.toNat + (15 : RegIx).val ≤ 0xFFF := by
  decide

theorem witness_DrawXorsTheSprite_range :
    ((0#4 : Nibble) = 0 ∨ { ready with I := 0xFFFF }.I.toNat + (0#4).toNat - 1 ≤ 0xFFF) ∧
    ((15#4 : Nibble) = 0 ∨ { ready with I := 0xFF1 }.I.toNat + (15#4).toNat - 1 ≤ 0xFFF) ∧
    (15#4 : Nibble) ≠ 0 ∧ 0xFFF < { ready with I := 0xFF2 }.I.toNat + (15#4).toNat - 1 := by decide

theorem witness_DrawXorsTheSprite_collision :
    ∃ px py, pixel { sprite with fb := setPixel sprite.fb 0 31 true }.fb px py = true ∧
      spriteLights { sprite with fb := setPixel sprite.fb 0 31 true } 1 2 1 px py :=
  ⟨0, 31, by decide, 0, 2, by decide, by decide, by decide, by decide, by decide⟩

theorem witness_DrawXorsTheSprite_no_collision :
    ∀ px py, spriteLights sprite 1 2 1 px py → pixel sprite.fb px py = false :=
  fun px py _ => pixel_blankFrame px py

theorem witness_DrawTwiceRestoresTheDisplay :
    (1 : RegIx) ≠ 15 ∧ (2 : RegIx) ≠ 15 ∧ ((1#4 : Nibble) = 0 ∨ sprite.I.toNat + (1#4).toNat - 1 ≤ 0xFFF) := by decide

theorem witness_LoadKeyTakesTheLowestOrWaits :
    { ready with keys := 0x8000 }.keys ≠ 0 ∧ ready.keys = 0 := by decide

end Sys2Proof.Tests
end

section
/-! PROOFS. The obligations about memory (20_memory.md). -/

namespace Sys2Proof.Proofs
open Sys2Proof.Machine

/-- Settles O7: in range a fetch gives the word of the two bytes (`Memory.fetch_some`), and the value of such a word has
its first byte as the high one (`wordOfBytes_toNat`; R53). -/
theorem fetchIsBigEndian : Obligations.FetchIsBigEndian := fun m a h =>
  ⟨_, Memory.fetch_some m a h, wordOfBytes_toNat _ _⟩

end Sys2Proof.Proofs
end

section
/-! PROOFS. The obligations about the encoding (30_encoding.md). -/

namespace Sys2Proof.Proofs
open Sys2Proof.Machine

/-- The shape all the fields share: a shift, then the lowest `n` bits, which is a mask of `n` ones. -/
theorem setWidth_ushiftRight_toNat (op : Word) (s n : Nat) :
    ((op >>> s).setWidth n).toNat = (op.toNat >>> s) &&& (2 ^ n - 1) := by
  rw [BitVec.toNat_setWidth, BitVec.toNat_ushiftRight, Nat.and_two_pow_sub_one_eq_mod]

/-- The same for the fields that start at bit 0. -/
theorem setWidth_toNat_mask (op : Word) (n : Nat) : (op.setWidth n).toNat = op.toNat &&& (2 ^ n - 1) := by
  rw [BitVec.toNat_setWidth, Nat.and_two_pow_sub_one_eq_mod]

/-- Settles O4: each field is a shift and a mask of ones (R71), of 4 bits for G, X, Y and N, of 8 for NN and of 12 for
NNN. -/
theorem fieldsAreMaskedShifts : Obligations.FieldsAreMaskedShifts := fun op =>
  ⟨setWidth_ushiftRight_toNat op 12 4, setWidth_ushiftRight_toNat op 8 4, setWidth_ushiftRight_toNat op 4 4,
    setWidth_toNat_mask op 4, setWidth_toNat_mask op 8, setWidth_toNat_mask op 12⟩

end Sys2Proof.Proofs
end

section
/-! PROOFS. NOP and the cycle of a word of no pattern (40_cycle.md R91, R95). -/

namespace Sys2Proof.Proofs
open Sys2Proof.Machine

/-- The opcode map has a row with this value and this mask, whatever its mnemonic. -/
def mapHasRow (value mask : Word) : Bool := opcodeMap.any fun row => row.value == value && row.mask == mask

/-! ### A word that no row matches decodes to NOP (30_encoding.md R76) -/

section Unmatched
variable {w : Word} (h : ∀ row ∈ opcodeMap, rowMatches row w = false)
include h

/-- An unmatched word differs under a row's mask from the row's value. -/
theorem masked_ne_of_unmatched {value mask : Word} (hr : mapHasRow value mask = true) : w &&& mask ≠ value := by
  intro hw
  simp only [mapHasRow, List.any_eq_true, Bool.and_eq_true, beq_iff_eq] at hr
  obtain ⟨row, hrow, rfl, rfl⟩ := hr
  have hmatch : rowMatches row w = true := by simp [rowMatches, hw]
  exact Bool.false_ne_true ((h row hrow).symm.trans hmatch)

/-- It is in no group that belongs to a single pattern. -/
theorem fieldG_ne_of_unmatched (g : Nibble) (hr : mapHasRow (formA g 0) 0xF000 = true) : fieldG w ≠ g :=
  fun hg => masked_ne_of_unmatched h hr ((mask_F000_eq w g).mpr hg)

/-- Its low byte is no key of its group (R75). -/
theorem fieldNN_ne_of_unmatched {g : Nibble} (hg : fieldG w = g) (nn : Byte)
    (hr : mapHasRow (formI g 0 nn) 0xF0FF = true) : fieldNN w ≠ nn :=
  fun hnn => masked_ne_of_unmatched h hr ((mask_F0FF_eq w g nn).mpr ⟨hg, hnn⟩)

/-- Its low nibble is no key of its group (R75). -/
theorem fieldN_ne_of_unmatched {g : Nibble} (hg : fieldG w = g) (n : Nibble)
    (hr : mapHasRow (formR g 0 0 n) 0xF00F = true) : fieldN w ≠ n :=
  fun hn => masked_ne_of_unmatched h hr ((mask_F00F_eq w g n).mpr ⟨hg, hn⟩)

/-- In a group with a loose mask its low nibble is not allowed (R77). -/
theorem subKeyOk_of_unmatched {name : String} {value : Word} {g : Nibble} (hg : fieldG w = g)
    (hrow : ⟨name, value, 0xF00F, some 0xF000⟩ ∈ opcodeMap) (hv : value = formA g 0) :
    subKeyOk (fieldN w) = false := by
  have hmatch := h _ hrow
  rwa [rowMatches_loose name value w g hv, hg, beq_self_eq_true, Bool.true_and] at hmatch

theorem decodeGroup0_of_unmatched (hg : fieldG w = 0) : decodeGroup0 w = .nop w := by
  have hne := fieldNN_ne_of_unmatched h hg
  simpa [hne 0xE0#8 rfl, hne 0xEE#8 rfl] using decodeGroup0_cases w

theorem decodeGroup5_of_unmatched (hg : fieldG w = 5) : decodeGroup5 w = .nop w := by
  have hn := subKeyOk_of_unmatched h (name := "SE_VX__VY") hg (by decide) rfl
  simpa [hn] using decodeGroup5_cases w

theorem decodeGroup8_of_unmatched (hg : fieldG w = 8) : decodeGroup8 w = .nop w := by
  have hne := fieldN_ne_of_unmatched h hg
  simpa [hne 0x0#4 rfl, hne 0x1#4 rfl, hne 0x2#4 rfl, hne 0x3#4 rfl, hne 0x4#4 rfl, hne 0x5#4 rfl, hne 0x6#4 rfl,
    hne 0x7#4 rfl, hne 0xE#4 rfl] using decodeGroup8_cases w

theorem decodeGroup9_of_unmatched (hg : fieldG w = 9) : decodeGroup9 w = .nop w := by
  have hn := subKeyOk_of_unmatched h (name := "SNE_VX__VY") hg (by decide) rfl
  simpa [hn] using decodeGroup9_cases w

theorem decodeGroupE_of_unmatched (hg : fieldG w = 14) : decodeGroupE w = .nop w := by
  have hne := fieldNN_ne_of_unmatched h hg
  simpa [hne 0x9E#8 rfl, hne 0xA1#8 rfl] using decodeGroupE_cases w

theorem decodeGroupF_of_unmatched (hg : fieldG w = 15) : decodeGroupF w = .nop w := by
  have hne := fieldNN_ne_of_unmatched h hg
  simpa [hne 0x07#8 rfl, hne 0x0A#8 rfl, hne 0x15#8 rfl, hne 0x18#8 rfl, hne 0x1E#8 rfl, hne 0x29#8 rfl, hne 0x33#8 rfl,
    hne 0x55#8 rfl, hne 0x65#8 rfl] using decodeGroupF_cases w

/-- An unmatched word is in one of the six groups with a second level (R75, R77). -/
theorem fieldG_of_unmatched :
    fieldG w = 0 ∨ fieldG w = 5 ∨ fieldG w = 8 ∨ fieldG w = 9 ∨ fieldG w = 14 ∨ fieldG w = 15 := by
  have hne := fieldG_ne_of_unmatched h
  simpa [hne 1#4 rfl, hne 2#4 rfl, hne 3#4 rfl, hne 4#4 rfl, hne 6#4 rfl, hne 7#4 rfl, hne 10#4 rfl, hne 11#4 rfl,
    hne 12#4 rfl, hne 13#4 rfl] using fieldG_cases w

theorem decode_of_unmatched : decode w = .nop w := by
  obtain hg | hg | hg | hg | hg | hg := fieldG_of_unmatched h
  · simpa [decode, hg] using decodeGroup0_of_unmatched h hg
  · simpa [decode, hg] using decodeGroup5_of_unmatched h hg
  · simpa [decode, hg] using decodeGroup8_of_unmatched h hg
  · simpa [decode, hg] using decodeGroup9_of_unmatched h hg
  · simpa [decode, hg] using decodeGroupE_of_unmatched h hg
  · simpa [decode, hg] using decodeGroupF_of_unmatched h hg

end Unmatched

/-! ### The cycle -/

/-- R95: the meaning of NOP. -/
@[simp] theorem exec_nop (w : Word) (s : State) : exec (.nop w) s = .next s := rfl

/-- R91: a cycle in RUNNING answers what the fetched word's instruction makes of the state with `pc` advanced, and
raises the strobe. -/
theorem step_of_fetch {s t : State} {w : Word} (hcycle : s.nextEvent = .cycle) (hmode : s.mode = .running)
    (hfetch : Memory.fetch s.mem s.pc = some w) (hexec : exec (decode w) (s.takeEvent.setPc (s.pc + 2)) = .next t) :
    step s = .next (t.setSignal .update) := by
  have hrun : s.takeEvent.runCycle = .next t := by simpa [State.runCycle, hfetch] using hexec
  simp [step_cycle s hcycle, State.onCycle, hmode, hrun, endCycle]

/-- Settles O29: NOP answers its state (`exec_nop`); a word that no row matches decodes to NOP group by group
(`decode_of_unmatched`), so its cycle (`step_of_fetch`) leaves the state with `pc` advanced and the strobe raised. -/
theorem nopOnlyAdvances : Obligations.NopOnlyAdvances := by
  refine ⟨exec_nop, fun s w hcycle hmode hfetch hw => ?_⟩
  have hdecode := decode_of_unmatched hw
  have hexec : exec (decode w) (s.takeEvent.setPc (s.pc + 2)) = .next (s.takeEvent.setPc (s.pc + 2)) := by
    rw [hdecode, exec_nop]
  exact ⟨hdecode, step_of_fetch hcycle hmode hfetch hexec⟩

end Sys2Proof.Proofs
end

section
/-! PROOFS. The obligations about control flow (41_control_flow.md). -/

namespace Sys2Proof.Proofs
open Sys2Proof.Machine

/-- R74: group 1 is JP alone. -/
theorem decode_of_group1 {w : Word} (hg : fieldG w = 1) : decode w = .jp (fieldNNN w) := by simp [decode, hg]

/-- R110: the meaning of JP. -/
@[simp] theorem exec_jp (nnn : Addr12) (s : State) : exec (.jp nnn) s = .next (s.setPc (zextAddr nnn)) := rfl

/-- A 12-bit target keeps its value as a 16-bit `pc`. -/
theorem zextAddr_toNat (nnn : Addr12) : (zextAddr nnn).toNat = nnn.toNat :=
  BitVec.toNat_setWidth_of_le (by decide)

/-- Settles O30: a word of pattern 1NNN is in group 1 (`mask_F000_eq`), which is JP alone; JP answers its state with
`pc` set to the target (`exec_jp`), whose value zero-extension keeps (`zextAddr_toNat`). -/
theorem jumpSetsPc : Obligations.JumpSetsPc :=
  ⟨fun w hw => decode_of_group1 ((mask_F000_eq w 1).mp hw),
    fun nnn s => ⟨_, exec_jp nnn s, zextAddr_toNat nnn, rfl⟩⟩

end Sys2Proof.Proofs
end

section
/-! PROOFS. The decoder by patterns, one rule per row of the opcode map, and the round trips of decoder and encoder
(30_encoding.md R72, R74 to R78, R81). -/

namespace Sys2Proof.Proofs
open Sys2Proof.Machine

/-! ### One rule per pattern -/

section Patterns
variable {w : Word}

theorem decode_cls (h : fieldG w = 0x0 ∧ fieldNN w = 0xE0) : decode w = .cls (fieldX4 w) := by
  simp [decode, decodeGroup0, h]

theorem decode_ret (h : fieldG w = 0x0 ∧ fieldNN w = 0xEE) : decode w = .ret (fieldX4 w) := by
  simp [decode, decodeGroup0, h]

theorem decode_call (h : fieldG w = 0x2) : decode w = .call (fieldNNN w) := by simp [decode, h]

theorem decode_seImm (h : fieldG w = 0x3) : decode w = .seImm (fieldX w) (fieldNN w) := by simp [decode, h]

theorem decode_sneImm (h : fieldG w = 0x4) : decode w = .sneImm (fieldX w) (fieldNN w) := by simp [decode, h]

theorem decode_seReg (h : fieldG w = 0x5 ∧ subKeyOk (fieldN w) = true) :
    decode w = .seReg (fieldX w) (fieldY w) (fieldN w) := by
  simp [decode, decodeGroup5, h]

theorem decode_ldImm (h : fieldG w = 0x6) : decode w = .ldImm (fieldX w) (fieldNN w) := by simp [decode, h]

theorem decode_addImm (h : fieldG w = 0x7) : decode w = .addImm (fieldX w) (fieldNN w) := by simp [decode, h]

theorem decode_ldReg (h : fieldG w = 0x8 ∧ fieldN w = 0x0) : decode w = .ldReg (fieldX w) (fieldY w) := by
  simp [decode, decodeGroup8, h]

theorem decode_orReg (h : fieldG w = 0x8 ∧ fieldN w = 0x1) : decode w = .orReg (fieldX w) (fieldY w) := by
  simp [decode, decodeGroup8, h]

theorem decode_andReg (h : fieldG w = 0x8 ∧ fieldN w = 0x2) : decode w = .andReg (fieldX w) (fieldY w) := by
  simp [decode, decodeGroup8, h]

theorem decode_xorReg (h : fieldG w = 0x8 ∧ fieldN w = 0x3) : decode w = .xorReg (fieldX w) (fieldY w) := by
  simp [decode, decodeGroup8, h]

theorem decode_addReg (h : fieldG w = 0x8 ∧ fieldN w = 0x4) : decode w = .addReg (fieldX w) (fieldY w) := by
  simp [decode, decodeGroup8, h]

theorem decode_sub (h : fieldG w = 0x8 ∧ fieldN w = 0x5) : decode w = .sub (fieldX w) (fieldY w) := by
  simp [decode, decodeGroup8, h]

theorem decode_shr (h : fieldG w = 0x8 ∧ fieldN w = 0x6) : decode w = .shr (fieldX w) (fieldY4 w) := by
  simp [decode, decodeGroup8, h]

theorem decode_subn (h : fieldG w = 0x8 ∧ fieldN w = 0x7) : decode w = .subn (fieldX w) (fieldY w) := by
  simp [decode, decodeGroup8, h]

theorem decode_shl (h : fieldG w = 0x8 ∧ fieldN w = 0xE) : decode w = .shl (fieldX w) (fieldY4 w) := by
  simp [decode, decodeGroup8, h]

theorem decode_sneReg (h : fieldG w = 0x9 ∧ subKeyOk (fieldN w) = true) :
    decode w = .sneReg (fieldX w) (fieldY w) (fieldN w) := by
  simp [decode, decodeGroup9, h]

theorem decode_ldI (h : fieldG w = 0xA) : decode w = .ldI (fieldNNN w) := by simp [decode, h]

theorem decode_jpV0 (h : fieldG w = 0xB) : decode w = .jpV0 (fieldNNN w) := by simp [decode, h]

theorem decode_rnd (h : fieldG w = 0xC) : decode w = .rnd (fieldX w) (fieldNN w) := by simp [decode, h]

theorem decode_drw (h : fieldG w = 0xD) : decode w = .drw (fieldX w) (fieldY w) (fieldN w) := by simp [decode, h]

theorem decode_skp (h : fieldG w = 0xE ∧ fieldNN w = 0x9E) : decode w = .skp (fieldX w) := by
  simp [decode, decodeGroupE, h]

theorem decode_sknp (h : fieldG w = 0xE ∧ fieldNN w = 0xA1) : decode w = .sknp (fieldX w) := by
  simp [decode, decodeGroupE, h]

theorem decode_ldVxDt (h : fieldG w = 0xF ∧ fieldNN w = 0x07) : decode w = .ldVxDt (fieldX w) := by
  simp [decode, decodeGroupF, h]

theorem decode_ldVxK (h : fieldG w = 0xF ∧ fieldNN w = 0x0A) : decode w = .ldVxK (fieldX w) := by
  simp [decode, decodeGroupF, h]

theorem decode_ldDtVx (h : fieldG w = 0xF ∧ fieldNN w = 0x15) : decode w = .ldDtVx (fieldX w) := by
  simp [decode, decodeGroupF, h]

theorem decode_ldStVx (h : fieldG w = 0xF ∧ fieldNN w = 0x18) : decode w = .ldStVx (fieldX w) := by
  simp [decode, decodeGroupF, h]

theorem decode_addI (h : fieldG w = 0xF ∧ fieldNN w = 0x1E) : decode w = .addI (fieldX w) := by
  simp [decode, decodeGroupF, h]

theorem decode_ldF (h : fieldG w = 0xF ∧ fieldNN w = 0x29) : decode w = .ldF (fieldX w) := by
  simp [decode, decodeGroupF, h]

theorem decode_ldB (h : fieldG w = 0xF ∧ fieldNN w = 0x33) : decode w = .ldB (fieldX w) := by
  simp [decode, decodeGroupF, h]

theorem decode_ldMemVx (h : fieldG w = 0xF ∧ fieldNN w = 0x55) : decode w = .ldMemVx (fieldX w) := by
  simp [decode, decodeGroupF, h]

theorem decode_ldVxMem (h : fieldG w = 0xF ∧ fieldNN w = 0x65) : decode w = .ldVxMem (fieldX w) := by
  simp [decode, decodeGroupF, h]

/-- R77: N = 0 is allowed under both values of GROUP59_STRICT. -/
theorem decode_seReg_zero (h : fieldG w = 0x5 ∧ fieldN w = 0) : decode w = .seReg (fieldX w) (fieldY w) 0 := by
  rw [decode_seReg ⟨h.1, by simp [subKeyOk, h.2]⟩, h.2]

theorem decode_sneReg_zero (h : fieldG w = 0x9 ∧ fieldN w = 0) : decode w = .sneReg (fieldX w) (fieldY w) 0 := by
  rw [decode_sneReg ⟨h.1, by simp [subKeyOk, h.2]⟩, h.2]

end Patterns

/-! ### From instruction to word and back -/

theorem decode_of_isNopWord {w : Word} (h : isNopWord w = true) : decode w = .nop w :=
  decode_of_unmatched (by simpa [isNopWord] using h)

/-- Settles O1: the fields of an instruction's word are its operands (the laws `field…_form…`) and put the word in its
row, where the pattern's rule gives the instruction back; a well-formed NOP carries an unmatched word
(`decode_of_isNopWord`). -/
theorem decodeInvertsEncode : Obligations.DecodeInvertsEncode := by
  intro i hwf
  cases i with
  | nop w => exact decode_of_isNopWord hwf
  | seReg x y n => simp [encode, decode_seReg, show subKeyOk n = true from hwf]
  | sneReg x y n => simp [encode, decode_sneReg, show subKeyOk n = true from hwf]
  | cls z => simp [encode, decode_cls]
  | ret z => simp [encode, decode_ret]
  | jp nnn => simp [encode, decode_of_group1]
  | call nnn => simp [encode, decode_call]
  | seImm x nn => simp [encode, decode_seImm]
  | sneImm x nn => simp [encode, decode_sneImm]
  | ldImm x nn => simp [encode, decode_ldImm]
  | addImm x nn => simp [encode, decode_addImm]
  | ldReg x y => simp [encode, decode_ldReg]
  | orReg x y => simp [encode, decode_orReg]
  | andReg x y => simp [encode, decode_andReg]
  | xorReg x y => simp [encode, decode_xorReg]
  | addReg x y => simp [encode, decode_addReg]
  | sub x y => simp [encode, decode_sub]
  | shr x z => simp [encode, decode_shr]
  | subn x y => simp [encode, decode_subn]
  | shl x z => simp [encode, decode_shl]
  | ldI nnn => simp [encode, decode_ldI]
  | jpV0 nnn => simp [encode, decode_jpV0]
  | rnd x nn => simp [encode, decode_rnd]
  | drw x y n => simp [encode, decode_drw]
  | skp x => simp [encode, decode_skp]
  | sknp x => simp [encode, decode_sknp]
  | ldVxDt x => simp [encode, decode_ldVxDt]
  | ldVxK x => simp [encode, decode_ldVxK]
  | ldDtVx x => simp [encode, decode_ldDtVx]
  | ldStVx x => simp [encode, decode_ldStVx]
  | addI x => simp [encode, decode_addI]
  | ldF x => simp [encode, decode_ldF]
  | ldB x => simp [encode, decode_ldB]
  | ldMemVx x => simp [encode, decode_ldMemVx]
  | ldVxMem x => simp [encode, decode_ldVxMem]

/-! ### From word to instruction and back -/

/-- `w` decodes to a well-formed instruction of the mnemonic whose word is `w`. -/
def DecodesAs (w : Word) (mnemonic : String) : Prop :=
  mnemonicOf (decode w) = mnemonic ∧ (decode w).wellFormed = true ∧ encode (decode w) = w

theorem DecodesAs.of_eq {w : Word} {i : Instr} (hd : decode w = i) (hwf : i.wellFormed = true) (he : encode i = w) :
    DecodesAs w (mnemonicOf i) := by
  rw [DecodesAs, hd]; exact ⟨rfl, hwf, he⟩

section Words
variable {w : Word} {g n : Nibble} {nn : Byte} {name : String} {value : Word}

/-- A word of format A is put together again from its group and address. -/
theorem formA_of_group (h : fieldG w = g) : formA g (fieldNNN w) = w := by rw [← h, formA_fields]

/-- A word of formats I, K and Z from its group, bits 11:8 and low byte. -/
theorem formI_of_group (h : fieldG w = g) : formI g (fieldX4 w) (fieldNN w) = w := by rw [← h, formI_fields]

theorem formI_of_key (h : fieldG w = g ∧ fieldNN w = nn) : formI g (fieldX4 w) nn = w :=
  (word_eq_formI w g nn h.1 h.2).symm

/-- A word of format R from its group, bits 11:4 and low nibble. -/
theorem formR_of_group (h : fieldG w = g) : formR g (fieldX4 w) (fieldY4 w) (fieldN w) = w := by rw [← h, formR_fields]

theorem formR_of_key (h : fieldG w = g ∧ fieldN w = n) : formR g (fieldX4 w) (fieldY4 w) n = w :=
  (word_eq_formR w g n h.1 h.2).symm

/-- What a word that matches a row has in the fields that the row's mask keeps. -/
theorem group_of_rowMatches (h : rowMatches (mapRow name (formA g 0) 0xF000) w = true) : fieldG w = g := by
  rwa [rowMatches_F000 name _ w g rfl, beq_iff_eq] at h

theorem key_of_rowMatches (h : rowMatches (mapRow name (formI g 0 nn) 0xF0FF) w = true) :
    fieldG w = g ∧ fieldNN w = nn := by
  rwa [rowMatches_F0FF name _ w g nn rfl, Bool.and_eq_true, beq_iff_eq, beq_iff_eq] at h

theorem subKey_of_rowMatches (h : rowMatches (mapRow name (formR g 0 0 n) 0xF00F) w = true) :
    fieldG w = g ∧ fieldN w = n := by
  rwa [rowMatches_F00F name _ w g n rfl, Bool.and_eq_true, beq_iff_eq, beq_iff_eq] at h

theorem looseKey_of_rowMatches (h : rowMatches ⟨name, formA g 0, 0xF00F, some 0xF000⟩ w = true) :
    fieldG w = g ∧ subKeyOk (fieldN w) = true := by
  rwa [rowMatches_loose name _ w g rfl, Bool.and_eq_true, beq_iff_eq] at h

theorem decodesAs_of_low (row : MapRow) (hrow : row ∈ opcodeRowsLow) (h : rowMatches row w = true) :
    DecodesAs w row.mnemonic := by
  simp only [opcodeRowsLow, List.mem_cons, List.not_mem_nil, or_false] at hrow
  rcases hrow with rfl | rfl | rfl | rfl | rfl | rfl | rfl | rfl | rfl
  · have hk := key_of_rowMatches (g := 0x0) (nn := 0xE0) h
    exact .of_eq (decode_cls hk) rfl (by simpa [encode] using formI_of_key hk)
  · have hk := key_of_rowMatches (g := 0x0) (nn := 0xEE) h
    exact .of_eq (decode_ret hk) rfl (by simpa [encode] using formI_of_key hk)
  · have hk := group_of_rowMatches (g := 0x1) h
    exact .of_eq (decode_of_group1 hk) rfl (by simpa [encode] using formA_of_group hk)
  · have hk := group_of_rowMatches (g := 0x2) h
    exact .of_eq (decode_call hk) rfl (by simpa [encode] using formA_of_group hk)
  · have hk := group_of_rowMatches (g := 0x3) h
    exact .of_eq (decode_seImm hk) rfl (by simpa [encode] using formI_of_group hk)
  · have hk := group_of_rowMatches (g := 0x4) h
    exact .of_eq (decode_sneImm hk) rfl (by simpa [encode] using formI_of_group hk)
  · have hk := looseKey_of_rowMatches (g := 0x5) h
    exact .of_eq (decode_seReg hk) hk.2 (by simpa [encode] using formR_of_group hk.1)
  · have hk := group_of_rowMatches (g := 0x6) h
    exact .of_eq (decode_ldImm hk) rfl (by simpa [encode] using formI_of_group hk)
  · have hk := group_of_rowMatches (g := 0x7) h
    exact .of_eq (decode_addImm hk) rfl (by simpa [encode] using formI_of_group hk)

theorem decodesAs_of_eight (row : MapRow) (hrow : row ∈ opcodeRowsEight) (h : rowMatches row w = true) :
    DecodesAs w row.mnemonic := by
  simp only [opcodeRowsEight, List.mem_cons, List.not_mem_nil, or_false] at hrow
  rcases hrow with rfl | rfl | rfl | rfl | rfl | rfl | rfl | rfl | rfl
  · have hk := subKey_of_rowMatches (g := 0x8) (n := 0x0) h
    exact .of_eq (decode_ldReg hk) rfl (by simpa [encode] using formR_of_key hk)
  · have hk := subKey_of_rowMatches (g := 0x8) (n := 0x1) h
    exact .of_eq (decode_orReg hk) rfl (by simpa [encode] using formR_of_key hk)
  · have hk := subKey_of_rowMatches (g := 0x8) (n := 0x2) h
    exact .of_eq (decode_andReg hk) rfl (by simpa [encode] using formR_of_key hk)
  · have hk := subKey_of_rowMatches (g := 0x8) (n := 0x3) h
    exact .of_eq (decode_xorReg hk) rfl (by simpa [encode] using formR_of_key hk)
  · have hk := subKey_of_rowMatches (g := 0x8) (n := 0x4) h
    exact .of_eq (decode_addReg hk) rfl (by simpa [encode] using formR_of_key hk)
  · have hk := subKey_of_rowMatches (g := 0x8) (n := 0x5) h
    exact .of_eq (decode_sub hk) rfl (by simpa [encode] using formR_of_key hk)
  · have hk := subKey_of_rowMatches (g := 0x8) (n := 0x6) h
    exact .of_eq (decode_shr hk) rfl (by simpa [encode] using formR_of_key hk)
  · have hk := subKey_of_rowMatches (g := 0x8) (n := 0x7) h
    exact .of_eq (decode_subn hk) rfl (by simpa [encode] using formR_of_key hk)
  · have hk := subKey_of_rowMatches (g := 0x8) (n := 0xE) h
    exact .of_eq (decode_shl hk) rfl (by simpa [encode] using formR_of_key hk)

theorem decodesAs_of_high (row : MapRow) (hrow : row ∈ opcodeRowsHigh) (h : rowMatches row w = true) :
    DecodesAs w row.mnemonic := by
  simp only [opcodeRowsHigh, List.mem_cons, List.not_mem_nil, or_false] at hrow
  rcases hrow with rfl | rfl | rfl | rfl | rfl | rfl | rfl | rfl | rfl | rfl | rfl | rfl | rfl | rfl | rfl | rfl
  · have hk := looseKey_of_rowMatches (g := 0x9) h
    exact .of_eq (decode_sneReg hk) hk.2 (by simpa [encode] using formR_of_group hk.1)
  · have hk := group_of_rowMatches (g := 0xA) h
    exact .of_eq (decode_ldI hk) rfl (by simpa [encode] using formA_of_group hk)
  · have hk := group_of_rowMatches (g := 0xB) h
    exact .of_eq (decode_jpV0 hk) rfl (by simpa [encode] using formA_of_group hk)
  · have hk := group_of_rowMatches (g := 0xC) h
    exact .of_eq (decode_rnd hk) rfl (by simpa [encode] using formI_of_group hk)
  · have hk := group_of_rowMatches (g := 0xD) h
    exact .of_eq (decode_drw hk) rfl (by simpa [encode] using formR_of_group hk)
  · have hk := key_of_rowMatches (g := 0xE) (nn := 0x9E) h
    exact .of_eq (decode_skp hk) rfl (by simpa [encode] using formI_of_key hk)
  · have hk := key_of_rowMatches (g := 0xE) (nn := 0xA1) h
    exact .of_eq (decode_sknp hk) rfl (by simpa [encode] using formI_of_key hk)
  · have hk := key_of_rowMatches (g := 0xF) (nn := 0x07) h
    exact .of_eq (decode_ldVxDt hk) rfl (by simpa [encode] using formI_of_key hk)
  · have hk := key_of_rowMatches (g := 0xF) (nn := 0x0A) h
    exact .of_eq (decode_ldVxK hk) rfl (by simpa [encode] using formI_of_key hk)
  · have hk := key_of_rowMatches (g := 0xF) (nn := 0x15) h
    exact .of_eq (decode_ldDtVx hk) rfl (by simpa [encode] using formI_of_key hk)
  · have hk := key_of_rowMatches (g := 0xF) (nn := 0x18) h
    exact .of_eq (decode_ldStVx hk) rfl (by simpa [encode] using formI_of_key hk)
  · have hk := key_of_rowMatches (g := 0xF) (nn := 0x1E) h
    exact .of_eq (decode_addI hk) rfl (by simpa [encode] using formI_of_key hk)
  · have hk := key_of_rowMatches (g := 0xF) (nn := 0x29) h
    exact .of_eq (decode_ldF hk) rfl (by simpa [encode] using formI_of_key hk)
  · have hk := key_of_rowMatches (g := 0xF) (nn := 0x33) h
    exact .of_eq (decode_ldB hk) rfl (by simpa [encode] using formI_of_key hk)
  · have hk := key_of_rowMatches (g := 0xF) (nn := 0x55) h
    exact .of_eq (decode_ldMemVx hk) rfl (by simpa [encode] using formI_of_key hk)
  · have hk := key_of_rowMatches (g := 0xF) (nn := 0x65) h
    exact .of_eq (decode_ldVxMem hk) rfl (by simpa [encode] using formI_of_key hk)

/-- A word that matches a row decodes to that row's instruction, well-formed and with the word itself (R76, R81). -/
theorem decodesAs_of_rowMatches {row : MapRow} (hrow : row ∈ opcodeMap) (h : rowMatches row w = true) :
    DecodesAs w row.mnemonic := by
  rw [opcodeMap, List.mem_append, List.mem_append] at hrow
  obtain (hrow | hrow) | hrow := hrow
  · exact decodesAs_of_low row hrow h
  · exact decodesAs_of_eight row hrow h
  · exact decodesAs_of_high row hrow h

end Words

/-- Settles O2: a word that matches a row decodes to the row's instruction, from whose fields it is put together again
(`decodesAs_of_rowMatches`); any other word is a NOP that carries it (`decode_of_isNopWord`). -/
theorem everyWordDecodesAndReencodes : Obligations.EveryWordDecodesAndReencodes := by
  intro w
  by_cases hnop : isNopWord w = true
  · rw [decode_of_isNopWord hnop]
    exact ⟨hnop, rfl⟩
  · obtain ⟨row, hrow, hmatch⟩ : ∃ row ∈ opcodeMap, rowMatches row w = true := by simpa [isNopWord] using hnop
    exact (decodesAs_of_rowMatches hrow hmatch).2

/-- The rows of the opcode map have different mnemonics, and none is that of NOP. -/
theorem mnemonics_of_rows :
    (opcodeMap.map MapRow.mnemonic).Nodup ∧ ∀ row ∈ opcodeMap, row.mnemonic ≠ "NOP" := by
  decide

/-- Settles O3: a matching row gives its mnemonic (`decodesAs_of_rowMatches`). Conversely a word with a row's mnemonic
is no NOP, so it matches some row, and rows of one mnemonic are one row (`mnemonics_of_rows`). -/
theorem decodeFollowsOpcodeMap : Obligations.DecodeFollowsOpcodeMap := by
  intro w
  have match_mnemonic {row} (hrow : row ∈ opcodeMap) (h : rowMatches row w = true) := (decodesAs_of_rowMatches hrow h).1
  have hnop : decode w = .nop w ↔ ∀ row ∈ opcodeMap, rowMatches row w = false := by
    refine ⟨fun hd row hrow => ?_, decode_of_unmatched⟩
    by_contra h
    have hm := match_mnemonic hrow (Bool.eq_true_of_not_eq_false h)
    exact mnemonics_of_rows.2 row hrow (by rw [← hm, hd]; rfl)
  refine ⟨fun row hrow => ⟨match_mnemonic hrow, fun hm => ?_⟩, hnop⟩
  by_cases hun : ∀ q ∈ opcodeMap, rowMatches q w = false
  · exact absurd (by rw [← hm, hnop.mpr hun]; rfl) (mnemonics_of_rows.2 row hrow)
  · obtain ⟨q, hq, hmatch⟩ : ∃ q ∈ opcodeMap, rowMatches q w = true := by simpa using hun
    have hqr : q.mnemonic = row.mnemonic := (match_mnemonic hq hmatch).symm.trans hm
    exact List.inj_on_of_nodup_map mnemonics_of_rows.1 hq hrow hqr ▸ hmatch

/-- Settles O5: with N not 0 the sub-key of groups 5 and 9 is allowed iff GROUP59_STRICT is false (R77). -/
theorem nonzeroNInGroupsFiveAndNine : Obligations.NonzeroNInGroupsFiveAndNine := by
  intro w hn
  have hkey : subKeyOk (fieldN w) = !group59Strict := by
    rw [subKeyOk, beq_eq_false_iff_ne.mpr hn, Bool.false_or]
  refine ⟨fun hg => ?_, fun hg => ?_⟩
  · cases hs : group59Strict <;> simp [decode, hg, decodeGroup5, hkey, hs]
  · cases hs : group59Strict <;> simp [decode, hg, decodeGroup9, hkey, hs]

/-- Settles O6: the decoder is evaluated on the nine words. -/
theorem sampleWordsDecode : Obligations.SampleWordsDecode := by
  unfold Obligations.SampleWordsDecode
  decide

end Sys2Proof.Proofs
end

section
/-! PROOFS. One rule per meaning (41_control_flow.md to 45_keypad_timers.md), and what it writes. -/

namespace Sys2Proof.Proofs
open Sys2Proof.Machine

variable (s : State)

/-! ### Meanings with one outcome -/

theorem exec_cls (z : Nibble) : exec (.cls z) s = .next (s.setFb blankFrame) := rfl

theorem exec_jpV0 (nnn : Addr12) : exec (.jpV0 nnn) s = .next (s.setPc (zextByte (s.reg 0) + zextAddr nnn)) := rfl

theorem exec_seImm (x : RegIx) (nn : Byte) :
    exec (.seImm x nn) s = .next (s.setPc (if s.reg x = nn then s.pc + 2 else s.pc)) := by
  simp [exec, execSeImm, State.skipIf_eq]

theorem exec_sneImm (x : RegIx) (nn : Byte) :
    exec (.sneImm x nn) s = .next (s.setPc (if s.reg x = nn then s.pc else s.pc + 2)) := by
  simp [exec, execSneImm, State.skipIf_eq]

theorem exec_seReg (x y : RegIx) (n : Nibble) :
    exec (.seReg x y n) s = .next (s.setPc (if s.reg x = s.reg y then s.pc + 2 else s.pc)) := by
  simp [exec, execSeReg, State.skipIf_eq]

theorem exec_sneReg (x y : RegIx) (n : Nibble) :
    exec (.sneReg x y n) s = .next (s.setPc (if s.reg x = s.reg y then s.pc else s.pc + 2)) := by
  simp [exec, execSneReg, State.skipIf_eq]

theorem exec_ldImm (x : RegIx) (nn : Byte) : exec (.ldImm x nn) s = .next (s.setReg x nn) := rfl

theorem exec_addImm (x : RegIx) (nn : Byte) : exec (.addImm x nn) s = .next (s.setReg x (s.reg x + nn)) := rfl

theorem exec_ldReg (x y : RegIx) : exec (.ldReg x y) s = .next (s.setReg x (s.reg y)) := rfl

theorem exec_orReg (x y : RegIx) : exec (.orReg x y) s = .next (s.setReg x (s.reg x ||| s.reg y)) := rfl

theorem exec_andReg (x y : RegIx) : exec (.andReg x y) s = .next (s.setReg x (s.reg x &&& s.reg y)) := rfl

theorem exec_xorReg (x y : RegIx) : exec (.xorReg x y) s = .next (s.setReg x (s.reg x ^^^ s.reg y)) := rfl

theorem exec_addReg (x y : RegIx) :
    exec (.addReg x y) s = .next (s.setFlagThenReg x (carryFlag (s.reg x) (s.reg y)) (s.reg x + s.reg y)) := rfl

theorem exec_sub (x y : RegIx) :
    exec (.sub x y) s = .next (s.setFlagThenReg x (noBorrowFlag (s.reg x) (s.reg y)) (s.reg x - s.reg y)) := rfl

theorem exec_subn (x y : RegIx) :
    exec (.subn x y) s = .next (s.setFlagThenReg x (noBorrowFlag (s.reg y) (s.reg x)) (s.reg y - s.reg x)) := rfl

theorem exec_shr (x : RegIx) (z : Nibble) :
    exec (.shr x z) s = .next (s.setFlagThenReg x (shiftedOutLow (s.reg x)) (s.reg x >>> 1)) := rfl

theorem exec_shl (x : RegIx) (z : Nibble) :
    exec (.shl x z) s = .next (s.setFlagThenReg x (shiftedOutHigh (s.reg x)) (s.reg x <<< 1)) := rfl

theorem exec_rnd (x : RegIx) (nn : Byte) : exec (.rnd x nn) s = .next (s.countDraw.setReg x (s.drawn &&& nn)) := rfl

theorem exec_ldI (nnn : Addr12) : exec (.ldI nnn) s = .next (s.setI (zextAddr nnn)) := rfl

theorem exec_addI (x : RegIx) : exec (.addI x) s = .next (s.setI (s.I + zextByte (s.reg x))) := rfl

theorem exec_ldF (x : RegIx) : exec (.ldF x) s = .next (s.setI (glyphAddr (s.reg x))) := rfl

theorem exec_skp (x : RegIx) :
    exec (.skp x) s = .next (s.setPc (if keyDown s.keys (s.reg x) then s.pc + 2 else s.pc)) := by
  rw [exec, execSkp, State.skipIf_eq]

theorem exec_sknp (x : RegIx) :
    exec (.sknp x) s = .next (s.setPc (if keyDown s.keys (s.reg x) then s.pc else s.pc + 2)) := by
  rw [exec, execSknp, State.skipIf_eq]
  cases keyDown s.keys (s.reg x) <;> rfl

theorem exec_ldVxDt (x : RegIx) : exec (.ldVxDt x) s = .next (s.setReg x s.DT) := rfl

theorem exec_ldDtVx (x : RegIx) : exec (.ldDtVx x) s = .next (s.setDT (s.reg x)) := rfl

theorem exec_ldStVx (x : RegIx) : exec (.ldStVx x) s = .next (s.setST (s.reg x)) := rfl

/-! ### A result with its flag (42_alu.md R130, decision D10) -/

section FlagThenReg
variable (x : RegIx) (flag result : Byte)

theorem reg_setFlagThenReg_self : (s.setFlagThenReg x flag result).reg x = result := by
  rw [State.reg_setFlagThenReg, if_pos rfl]

theorem reg_setFlagThenReg_flag (hx : x ≠ 15) : (s.setFlagThenReg x flag result).reg 15 = flag := by
  rw [State.reg_setFlagThenReg, if_neg hx.symm]; exact if_pos rfl

theorem reg_setFlagThenReg_other (k : RegIx) (hx : k ≠ x) (hf : k ≠ 15) :
    (s.setFlagThenReg x flag result).reg k = s.reg k := by
  rw [State.reg_setFlagThenReg, if_neg hx]; exact if_neg hf

end FlagThenReg

theorem reg_setReg_self (x : RegIx) (b : Byte) : (s.setReg x b).reg x = b := by simp

theorem reg_setReg_other (x : RegIx) (b : Byte) (k : RegIx) (h : k ≠ x) : (s.setReg x b).reg k = s.reg k := by
  simp [h]

end Sys2Proof.Proofs
end

section
/-! PROOFS. The obligations about single instructions (41_control_flow.md, 42_alu.md, 43_index_memory.md R160 to R162,
44_display.md R181, 45_keypad_timers.md). The clause about a pattern is the pattern's decoder rule. -/

namespace Sys2Proof.Proofs
open Sys2Proof.Machine

/-! ### Control transfer -/

/-- The largest sum is 0xFF + 0xFFF, so nothing is lost in 16 bits (R117, D31). -/
theorem toNat_zextByte_add_zextAddr (b : Byte) (nnn : Addr12) :
    (zextByte b + zextAddr nnn).toNat = b.toNat + nnn.toNat := by
  have hb : (zextByte b).toNat = b.toNat := BitVec.toNat_setWidth_of_le (by decide)
  rw [BitVec.toNat_add_of_lt (by rw [hb, zextAddr_toNat]; omega), hb, zextAddr_toNat]

/-- Settles O31: group B is JP V0 alone, and its target does not overflow (`toNat_zextByte_add_zextAddr`). -/
theorem jumpWithOffsetAddsRegisterZero : Obligations.JumpWithOffsetAddsRegisterZero :=
  ⟨fun _ hw => decode_jpV0 ((mask_F000_eq _ 0xB).mp hw),
    fun nnn s => ⟨_, exec_jpV0 s nnn, toNat_zextByte_add_zextAddr _ _, rfl⟩⟩

/-- Settles O35: by the rules of the four patterns and of the four meanings. -/
theorem compareSkips : Obligations.CompareSkips :=
  ⟨fun _ hw => decode_seImm ((mask_F000_eq _ 0x3).mp hw),
    fun _ hw => decode_sneImm ((mask_F000_eq _ 0x4).mp hw),
    fun _ hw => decode_seReg_zero ((mask_F00F_eq _ 0x5 0).mp hw),
    fun _ hw => decode_sneReg_zero ((mask_F00F_eq _ 0x9 0).mp hw),
    fun x nn s => ⟨⟨_, exec_seImm s x nn, rfl, rfl⟩, ⟨_, exec_sneImm s x nn, rfl, rfl⟩⟩,
    fun x y n s => ⟨⟨_, exec_seReg s x y n, rfl, rfl⟩, ⟨_, exec_sneReg s x y n, rfl, rfl⟩⟩⟩

/-- Settles O32: with a free entry CALL writes the entry at `sp`, the only one it changes; on a full stack it answers
the fault. -/
theorem callPushesPc : Obligations.CallPushesPc := by
  refine ⟨fun _ hw => decode_call ((mask_F000_eq _ 0x2).mp hw), fun nnn s => ⟨fun h => ?_, exec_call_of_full s nnn⟩⟩
  refine ⟨_, exec_call_of_lt s nnn h, ?_, rfl, zextAddr_toNat nnn, fun k hk => ?_, rfl⟩
  · exact Vector.getElem?_set_self h
  · exact Vector.getElem?_set_ne h hk.symm

/-- Settles O33: RET reads the entry below `sp` and lowers `sp`; on an empty stack it answers the fault. -/
theorem returnPopsPc : Obligations.ReturnPopsPc := by
  refine ⟨fun _ hw => decode_ret ((mask_F0FF_eq _ 0x0 0xEE).mp hw), fun z s => ⟨fun h => ?_, exec_ret_of_empty s z⟩⟩
  refine ⟨_, exec_ret_of_pos s z h, Nat.sub_add_cancel h, ?_, rfl⟩
  exact Vector.getElem?_eq_getElem _

/-- Settles O34: RET reads the entry CALL has just written, and the entries below are not touched. -/
theorem callThenReturnRestoresPc : Obligations.CallThenReturnRestoresPc := by
  intro nnn z s h
  refine ⟨_, _, exec_call_of_lt s nnn h, exec_ret_of_pos _ z (Nat.succ_pos s.sp.val), ?_, fun k hk => ?_⟩
  · simp
  · exact Vector.getElem?_set_ne h (by omega)

/-! ### Loads, arithmetic, logic, shifts, random -/

/-- Settles O36: each load is one register write (`State.reg_setReg`). -/
theorem registerLoads : Obligations.RegisterLoads :=
  ⟨fun _ hw => decode_ldImm ((mask_F000_eq _ 0x6).mp hw),
    fun _ hw => decode_ldReg ((mask_F00F_eq _ 0x8 0x0).mp hw),
    fun x nn s => ⟨_, exec_ldImm s x nn, fun k => s.reg_setReg x k nn, rfl⟩,
    fun x y s => ⟨_, exec_ldReg s x y, fun k => s.reg_setReg x k _, rfl⟩⟩

/-- Settles O37: one register write, of a sum in 8 bits. -/
theorem addImmediateWraps : Obligations.AddImmediateWraps := by
  refine ⟨fun _ hw => decode_addImm ((mask_F000_eq _ 0x7).mp hw), fun x nn s =>
    ⟨_, exec_addImm s x nn, ?_, reg_setReg_other s x _, rfl⟩⟩
  rw [reg_setReg_self, BitVec.toNat_add]

/-- Settles O38: one register write each, whose bits are the library's for `|||`, `&&&` and `^^^`. -/
theorem logicBitByBit : Obligations.LogicBitByBit := by
  refine ⟨fun _ hw => decode_orReg ((mask_F00F_eq _ 0x8 0x1).mp hw),
    fun _ hw => decode_andReg ((mask_F00F_eq _ 0x8 0x2).mp hw),
    fun _ hw => decode_xorReg ((mask_F00F_eq _ 0x8 0x3).mp hw), fun x y s => ⟨?_, ?_, ?_⟩⟩
  · refine ⟨_, exec_orReg s x y, fun b => ?_, reg_setReg_other s x _, rfl⟩
    rw [reg_setReg_self, BitVec.getLsbD_or]
  · refine ⟨_, exec_andReg s x y, fun b => ?_, reg_setReg_other s x _, rfl⟩
    rw [reg_setReg_self, BitVec.getLsbD_and]
  · refine ⟨_, exec_xorReg s x y, fun b => ?_, reg_setReg_other s x _, rfl⟩
    rw [reg_setReg_self, BitVec.getLsbD_xor]

/-- Settles O39: the result is the sum in 8 bits, the flag `carryFlag_eq`, written as R130 orders. -/
theorem addRegistersSetsCarry : Obligations.AddRegistersSetsCarry := by
  refine ⟨fun _ hw => decode_addReg ((mask_F00F_eq _ 0x8 0x4).mp hw), fun x y s =>
    ⟨_, exec_addReg s x y, ?_, fun hx => ?_, reg_setFlagThenReg_other s x _ _, rfl⟩⟩
  · rw [reg_setFlagThenReg_self, BitVec.toNat_add]
  · rw [reg_setFlagThenReg_flag s x _ _ hx, carryFlag_eq]

/-- A difference in 8 bits. -/
theorem toNat_byte_sub (a b : Byte) : (a - b).toNat = (256 + a.toNat - b.toNat) % 256 := by
  bv_omega

/-- Settles O40: the result is the difference in 8 bits (`toNat_byte_sub`), the flag that of `noBorrowFlag`. -/
theorem subtractsSetNoBorrow : Obligations.SubtractsSetNoBorrow := by
  refine ⟨fun _ hw => decode_sub ((mask_F00F_eq _ 0x8 0x5).mp hw),
    fun _ hw => decode_subn ((mask_F00F_eq _ 0x8 0x7).mp hw), subEqualFlag_cases, fun x y s => ⟨?_, ?_⟩⟩
  · refine ⟨_, exec_sub s x y, ?_, fun hx => ?_, reg_setFlagThenReg_other s x _ _, rfl⟩
    · rw [reg_setFlagThenReg_self, toNat_byte_sub]
    · rw [reg_setFlagThenReg_flag s x _ _ hx, noBorrowFlag]
  · refine ⟨_, exec_subn s x y, ?_, fun hx => ?_, reg_setFlagThenReg_other s x _ _, rfl⟩
    · rw [reg_setFlagThenReg_self, toNat_byte_sub]
    · rw [reg_setFlagThenReg_flag s x _ _ hx, noBorrowFlag]
      simp only [eq_comm (a := s.reg y) (b := s.reg x)]

/-- On unequal bytes exactly one order of the operands sets the flag. -/
theorem noBorrowFlag_add_swap (a b : Byte) (h : a ≠ b) : (noBorrowFlag a b).toNat + (noBorrowFlag b a).toNat = 1 := by
  obtain hlt | hgt := Nat.lt_or_gt_of_ne (mt BitVec.eq_of_toNat_eq h)
  · rw [noBorrowFlag_of_gt a b hlt, noBorrowFlag_of_lt b a hlt]; rfl
  · rw [noBorrowFlag_of_lt a b hgt, noBorrowFlag_of_gt b a hgt]; rfl

/-- Settles O41: the flags by `noBorrowFlag_add_swap`; the two differences cancel. -/
theorem subtractsAreComplementary : Obligations.SubtractsAreComplementary := by
  intro x y s hx hne
  refine ⟨_, _, exec_sub s x y, exec_subn s x y, ?_, ?_⟩
  · rw [reg_setFlagThenReg_flag s x _ _ hx, reg_setFlagThenReg_flag s x _ _ hx, noBorrowFlag_add_swap _ _ hne]
  · rw [reg_setFlagThenReg_self, reg_setFlagThenReg_self]; bv_omega

/-- The bit a right shift drops is the remainder by 2 (R139). -/
theorem toNat_shiftedOutLow (a : Byte) : (shiftedOutLow a).toNat = a.toNat % 2 := by
  rw [shiftedOutLow_eq, BitVec.getLsbD, Nat.testBit_zero]
  split <;> simp_all

/-- The bit a left shift drops is the quotient by 128 (R141). -/
theorem toNat_shiftedOutHigh (a : Byte) : (shiftedOutHigh a).toNat = a.toNat / 128 := by
  have ha := a.isLt
  rw [shiftedOutHigh_eq, BitVec.getLsbD, Nat.testBit_eq_decide_div_mod_eq]
  split <;> simp_all <;> omega

/-- Settles O42: a shift by one halves or doubles, and the flag is the bit it drops. -/
theorem shiftsByOne : Obligations.ShiftsByOne := by
  refine ⟨fun _ hw => decode_shr ((mask_F00F_eq _ 0x8 0x6).mp hw),
    fun _ hw => decode_shl ((mask_F00F_eq _ 0x8 0xE).mp hw),
    fun x z s => ⟨?_, ?_⟩⟩
  · refine ⟨_, exec_shr s x z, ?_, fun hx => ?_, reg_setFlagThenReg_other s x _ _, rfl⟩
    · rw [reg_setFlagThenReg_self, BitVec.toNat_ushiftRight, Nat.shiftRight_one]
    · rw [reg_setFlagThenReg_flag s x _ _ hx, toNat_shiftedOutLow]
  · refine ⟨_, exec_shl s x z, ?_, fun hx => ?_, reg_setFlagThenReg_other s x _ _, rfl⟩
    · rw [reg_setFlagThenReg_self, BitVec.toNat_shiftLeft, Nat.shiftLeft_eq, pow_one]
    · rw [reg_setFlagThenReg_flag s x _ _ hx, toNat_shiftedOutHigh]

/-- Settles O43: one register write, of a draw under the mask, and one more draw counted. -/
theorem randomMasksAFreshDraw : Obligations.RandomMasksAFreshDraw := by
  refine ⟨fun _ hw => decode_rnd ((mask_F000_eq _ 0xC).mp hw), fun x nn s =>
    ⟨_, exec_rnd s x nn, reg_setReg_self _ x _, rfl, fun b hb => ?_, reg_setReg_other s.countDraw x _, rfl⟩⟩
  rw [reg_setReg_self, BitVec.getLsbD_and, hb, Bool.and_false]

/-! ### Index register -/

/-- The largest glyph address is below 0x1000, so it is not reduced (R162, D14). -/
theorem toNat_glyphAddr (v : Byte) : (glyphAddr v).toNat = fontBase + 5 * v.toNat := by
  have hf := fontBase_add_le
  have hv := v.isLt
  rw [glyphAddr, BitVec.toNat_ofNat]
  omega

/-- Settles O44: one write of `I` each. -/
theorem indexRegisterWrites : Obligations.IndexRegisterWrites := by
  refine ⟨fun _ hw => decode_ldI ((mask_F000_eq _ 0xA).mp hw),
    fun _ hw => decode_addI ((mask_F0FF_eq _ 0xF 0x1E).mp hw),
    fun _ hw => decode_ldF ((mask_F0FF_eq _ 0xF 0x29).mp hw), fun nnn s => ⟨_, exec_ldI s nnn, zextAddr_toNat nnn, rfl⟩,
    fun x s => ⟨⟨_, exec_addI s x, ?_, rfl⟩, ⟨_, exec_ldF s x, toNat_glyphAddr _, rfl⟩⟩⟩
  have hb : (zextByte (s.reg x)).toNat = (s.reg x).toNat := BitVec.toNat_setWidth_of_le (by decide)
  rw [State.setI_I, BitVec.toNat_add, hb]

/-! ### Display, keypad, timers -/

/-- Settles O49: the buffer becomes the blank one (`pixel_blankFrame`). -/
theorem clearScreenTurnsEveryPixelOff : Obligations.ClearScreenTurnsEveryPixelOff :=
  ⟨fun _ hw => decode_cls ((mask_F0FF_eq _ 0x0 0xE0).mp hw), fun z s => ⟨_, exec_cls s z, pixel_blankFrame, rfl⟩⟩

/-- Settles O52: the skips ask `keyDown`, which is false above 15 (`keyDown_iff`). -/
theorem keySkips : Obligations.KeySkips := by
  refine ⟨fun _ hw => decode_skp ((mask_F0FF_eq _ 0xE 0x9E).mp hw),
    fun _ hw => decode_sknp ((mask_F0FF_eq _ 0xE 0xA1).mp hw),
    fun x s => ⟨⟨_, exec_skp s x, ?_, rfl⟩, ⟨_, exec_sknp s x, ?_, rfl⟩⟩⟩
  · simp only [State.setPc_pc, keyDown_iff]
  · simp only [State.setPc_pc, keyDown_iff]

/-- A key number is kept in a byte. -/
theorem toNat_ofNat_key {k : Nat} (h : k < 16) : (BitVec.ofNat 8 k).toNat = k := by
  rw [BitVec.toNat_ofNat]; omega

/-- Settles O53: `lowestKey_eq_some` says which key is loaded; with none pressed the machine waits. -/
theorem loadKeyTakesTheLowestOrWaits : Obligations.LoadKeyTakesTheLowestOrWaits := by
  refine ⟨fun _ hw => decode_ldVxK ((mask_F0FF_eq _ 0xF 0x0A).mp hw), fun x s => ⟨fun h => ?_, exec_ldVxK_of_none s x⟩⟩
  obtain ⟨k, hk, hexec⟩ := exec_ldVxK_of_some s x h
  obtain ⟨hlt, hdown, hlow⟩ := (lowestKey_eq_some s.keys k).mp hk
  refine ⟨_, k, hexec, hlt, hdown, hlow, ?_, reg_setReg_other s x _, rfl⟩
  rw [reg_setReg_self, toNat_ofNat_key hlt]

/-- Settles O54: one register write. -/
theorem loadDelayTimer : Obligations.LoadDelayTimer :=
  ⟨fun _ hw => decode_ldVxDt ((mask_F0FF_eq _ 0xF 0x07).mp hw),
    fun x s => ⟨_, exec_ldVxDt s x, fun k => s.reg_setReg x k _, rfl⟩⟩

/-- The sound output follows ST (R224). -/
theorem soundOn_iff (s : State) : s.soundOn = true ↔ s.ST ≠ 0 := bne_iff_ne

/-- Settles O55: one timer write each. -/
theorem storeTimers : Obligations.StoreTimers :=
  ⟨fun _ hw => decode_ldDtVx ((mask_F0FF_eq _ 0xF 0x15).mp hw),
    fun _ hw => decode_ldStVx ((mask_F0FF_eq _ 0xF 0x18).mp hw),
    fun x s => ⟨⟨_, exec_ldDtVx s x, rfl, rfl⟩, ⟨_, exec_ldStVx s x, rfl, soundOn_iff _, rfl⟩⟩⟩

end Sys2Proof.Proofs
end

section
/-! PROOFS. The obligations about loads and stores, the display (43_index_memory.md R163 to R165,
44_display.md R182, R183, 20_memory.md R61). -/

namespace Sys2Proof.Proofs
open Sys2Proof.Machine

/-! ### LD B, LD [I] and LD VX,[I] -/

/-- What a run of bytes written at `a` is read as, at the place of its byte `j`. -/
theorem read_writeBytes_getElem {m : Memory} {a : Nat} {bs : List Byte} (hwf : Memory.wf m = true)
    (ha : a + bs.length ≤ 0x1000) (j : Nat) (hj : j < bs.length) :
    Memory.read (Memory.writeBytes m a bs) (a + j) = bs[j] :=
  Memory.read_writeBytes_inside bs m a j hwf hj (by rw [memTop]; omega)

/-- Settles O45: the digits are the bytes written (`read_writeBytes_getElem`), each small enough for a byte. -/
theorem bcdStoresThreeDigits : Obligations.BcdStoresThreeDigits := by
  refine ⟨fun _ hw => decode_ldB ((mask_F0FF_eq _ 0xF 0x33).mp hw), fun x s => ⟨fun h => ?_, exec_ldB_of_gt s x⟩⟩
  refine ⟨_, exec_ldB_of_le s x h, fun hwf => ?_, fun a ha => Memory.read_writeBytes_outside _ _ _ _ ha, rfl⟩
  have hread := read_writeBytes_getElem (a := s.I.toNat) (bs := bcdDigits (s.reg x)) hwf (Nat.add_le_add_right h 3)
  have hv := (s.reg x).isLt
  refine ⟨?_, ?_, ?_⟩
  · exact (congrArg BitVec.toNat (hread 0 (Nat.zero_lt_succ 2))).trans (Nat.mod_eq_of_lt (by omega))
  · exact (congrArg BitVec.toNat (hread 1 (Nat.one_lt_succ_succ 1))).trans (Nat.mod_eq_of_lt (by omega))
  · exact (congrArg BitVec.toNat (hread 2 (Nat.lt_succ_self 2))).trans (Nat.mod_eq_of_lt (by omega))

/-- Canonical memory after LD [I], VX holds `V[k]` at `I + k` (R164). -/
theorem read_stored_reg {s : State} {x k : RegIx} (hwf : Memory.wf s.mem = true) (h : s.I.toNat + x.val ≤ 0xFFF)
    (hk : k ≤ x) : Memory.read (Memory.writeBytes s.mem s.I.toNat (s.regsUpTo x)) (s.I.toNat + k.val) = s.reg k := by
  have hlen : k.val < (s.regsUpTo x).length := by rw [State.length_regsUpTo]; exact Nat.lt_succ_of_le hk
  rw [read_writeBytes_getElem hwf (by rw [State.length_regsUpTo]; omega) k.val hlen, State.getElem_regsUpTo]

/-- Settles O46: the registers are the bytes written (`read_stored_reg`). -/
theorem storeRegistersCopiesUpToX : Obligations.StoreRegistersCopiesUpToX := by
  refine ⟨fun _ hw => decode_ldMemVx ((mask_F0FF_eq _ 0xF 0x55).mp hw),
    fun x s => ⟨fun h => ?_, exec_ldMemVx_of_gt s x⟩⟩
  refine ⟨_, exec_ldMemVx_of_le s x h, fun hwf k hk => read_stored_reg hwf h hk, fun a ha => ?_, rfl⟩
  exact Memory.read_writeBytes_outside _ _ _ _ (by rw [State.length_regsUpTo]; exact ha)

/-- Settles O47: by what LD VX,[I] leaves in each register (`State.reg_loadRegs`). -/
theorem loadRegistersCopiesUpToX : Obligations.LoadRegistersCopiesUpToX :=
  ⟨fun _ hw => decode_ldVxMem ((mask_F0FF_eq _ 0xF 0x65).mp hw), fun x s =>
    ⟨fun h => ⟨_, exec_ldVxMem_of_le s x h, s.reg_loadRegs s.I.toNat x, rfl⟩, exec_ldVxMem_of_gt s x⟩⟩

/-- Settles O48: the load reads, from the same addresses, what the store wrote (`read_stored_reg`). -/
theorem storeThenLoadRoundTrip : Obligations.StoreThenLoadRoundTrip := by
  intro x s V hwf h
  refine ⟨_, _, exec_ldMemVx_of_le s x h, exec_ldVxMem_of_le _ x h, fun k hk => ?_, fun k hk => ?_, rfl⟩
  · rw [State.reg_loadRegs, if_pos hk]
    exact read_stored_reg hwf h hk
  · rw [State.reg_loadRegs, if_neg (not_le.mpr hk)]
    rfl

/-- Settles O8: a fetch in range gives the word of the two bytes (`Memory.fetch_some`), which are the registers stored
there (`read_stored_reg`). -/
theorem storedBytesAreFetched : Obligations.StoredBytesAreFetched := by
  intro x j j' s a hwf h hj hj' ha
  have hle : j'.val ≤ x.val := hj'
  refine ⟨_, exec_ldMemVx_of_le s x h, _, Memory.fetch_some _ a (by omega), ?_⟩
  have hnext : a.toNat + 1 = s.I.toNat + j'.val := by omega
  rw [wordOfBytes_toNat, hnext, ha, State.setMem_mem, read_stored_reg hwf h hj',
    read_stored_reg hwf h (Fin.le_def.mpr (by omega))]

/-! ### DRW -/

section Sprite
variable (s : State) (x y : RegIx) (n : Nibble)

/-- The sprite bytes of DRW. -/
def spriteRows : List Byte := Memory.readBytes s.mem s.I.toNat n.toNat

/-- The display after DRW, and whether a pixel collided. -/
def drwResult : Frame × Bool := drawSprite s.fb (s.reg x).toNat (s.reg y).toNat (spriteRows s n)

/-- The rows read from memory light the pixels that the sprite of the statement lights. -/
theorem rowsLight_iff_spriteLights (px : Fin 64) (py : Fin 32) :
    rowsLight (s.reg x).toNat (s.reg y).toNat 0 (spriteRows s n) px py ↔ spriteLights s x y n px py := by
  simp only [rowsLight_iff, rowLights, spriteLights, spriteRows, spriteBit, Memory.length_readBytes,
    Memory.getElem_readBytes, Fin.ext_iff, columnAt_val, rowAt_val, Nat.zero_add]
  constructor
  · rintro ⟨r, hr, hy, c, hc, hx, hbit⟩
    exact ⟨r, c, hr, hc, hx, hy, hbit⟩
  · rintro ⟨r, c, hr, hc, hx, hy, hbit⟩
    exact ⟨r, hr, hy, c, hc, hx, hbit⟩

theorem drwResult_spec :
    (∀ px py, pixel (drwResult s x y n).1 px py = true ↔ ¬(pixel s.fb px py = true ↔ spriteLights s x y n px py)) ∧
    ((drwResult s x y n).2 = true ↔ ∃ px py, pixel s.fb px py = true ∧ spriteLights s x y n px py) := by
  have hlen : (spriteRows s n).length ≤ 32 := by
    have := n.isLt
    rw [spriteRows, Memory.length_readBytes]; omega
  simp only [← rowsLight_iff_spriteLights]
  exact drawSprite_spec s.fb (s.reg x).toNat (s.reg y).toNat _ hlen

theorem exec_drw_drwResult (h : n = 0 ∨ s.I.toNat + n.toNat - 1 ≤ 0xFFF) :
    exec (.drw x y n) s = .next ((s.setFb (drwResult s x y n).1).setReg flagIx (collisionFlag (drwResult s x y n).2)) :=
  exec_drw_of_le s x y n h

end Sprite

/-- Settles O50: the pixels and the collision by `drwResult_spec`; VF is the one register written. -/
theorem drawXorsTheSprite : Obligations.DrawXorsTheSprite := by
  refine ⟨fun _ hw => decode_drw ((mask_F000_eq _ 0xD).mp hw), fun x y n s => ⟨fun h => ?_, exec_drw_of_gt s x y n⟩⟩
  obtain ⟨hpixels, hhit⟩ := drwResult_spec s x y n
  refine ⟨_, exec_drw_drwResult s x y n h, hpixels, fun hcoll => ?_, fun hnone => ?_, reg_setReg_other _ flagIx _, rfl⟩
  · rw [hhit.mpr hcoll]
    exact reg_setReg_self _ flagIx _
  · have hmiss : (drwResult s x y n).2 = false := by
      refine Bool.eq_false_iff.mpr fun ht => ?_
      obtain ⟨px, py, hon, hlit⟩ := hhit.mp ht
      exact Bool.false_ne_true ((hnone px py hlit).symm.trans hon)
    rw [hmiss]
    exact reg_setReg_self _ flagIx _

/-- Settles O51: VF is no coordinate, so both draws light the same pixels, and inverting those twice gives the display
back (`drwResult_spec`). -/
theorem drawTwiceRestoresTheDisplay : Obligations.DrawTwiceRestoresTheDisplay := by
  intro x y n s hx hy h
  obtain ⟨t, ht⟩ : ∃ t, t = (s.setFb (drwResult s x y n).1).setReg flagIx (collisionFlag (drwResult s x y n).2) :=
    ⟨_, rfl⟩
  have hreg (k : RegIx) (hk : k ≠ 15) : t.reg k = s.reg k := by rw [ht]; exact reg_setReg_other _ flagIx _ k hk
  have hI : t.I = s.I := by rw [ht]; rfl
  have hmem : t.mem = s.mem := by rw [ht]; rfl
  have hlights (px : Fin 64) (py : Fin 32) : spriteLights t x y n px py ↔ spriteLights s x y n px py := by
    rw [spriteLights, spriteLights, hreg x hx, hreg y hy, hI, hmem]
  have hfb : (drwResult t x y n).1 = s.fb := by
    refine frame_ext _ _ fun px py => ?_
    rw [Bool.eq_iff_iff, (drwResult_spec t x y n).1, hlights, show t.fb = (drwResult s x y n).1 by rw [ht]; rfl,
      (drwResult_spec s x y n).1]
    tauto
  refine ⟨t, _, ht ▸ exec_drw_drwResult s x y n h, exec_drw_drwResult t x y n (hI ▸ h), ?_, fun k hk => ?_⟩
  · rw [hfb, ht]; rfl
  · exact (reg_setReg_other _ flagIx _ k hk).trans (hreg k hk)

end Sys2Proof.Proofs
end

section
/-! PROOFS. What an instruction can do, said once: it raises the fault of its rule, or it completes and writes only its
own destinations (10_state.md R21, R38, 60_exceptions.md R210, R215). -/

namespace Sys2Proof.Proofs
open Sys2Proof.Machine

/-! ### Faults -/

theorem faultOf_ne_fetchOob (i : Instr) (s : State) : faultOf i s ≠ .fetchOob := by
  cases i with
  | call _ | ret _ | ldB _ | ldMemVx _ | ldVxMem _ | drw _ _ _ => simp only [faultOf]; split <;> simp
  | _ => exact FaultCause.noConfusion

/-- A fault depends on `sp` and `I` alone. -/
theorem faultOf_congr (i : Instr) {s t : State} (hsp : t.sp = s.sp) (hI : t.I = s.I) : faultOf i t = faultOf i s := by
  cases i <;> simp only [faultOf, hsp, hI]

section Outcome
variable {s : State} {i : Instr}

/-- A cause that is named under a condition alone names the condition. -/
theorem of_ite_ne_none {c : Prop} [Decidable c] {cause : FaultCause} (h : (if c then cause else .none) ≠ .none) :
    c := by
  by_contra hc
  exact h (if_neg hc)

/-- An instruction whose rule names a fault raises it and does nothing else (R215). -/
theorem exec_of_fault (h : faultOf i s ≠ .none) : exec i s = .next (s.raiseFault (faultOf i s)) := by
  cases i with
  | call nnn =>
    have hc := of_ite_ne_none h
    rw [faultOf, if_pos hc, exec_call_of_full s nnn hc]
  | ret z =>
    have hc := of_ite_ne_none h
    rw [faultOf, if_pos hc, exec_ret_of_empty s z hc]
  | drw x y n =>
    have hc := of_ite_ne_none h
    have hn : n ≠ 0 := by rintro rfl; exact absurd hc.1 (by decide)
    rw [faultOf, if_pos hc, exec_drw_of_gt s x y n hn hc.2]
  | ldB x =>
    have hc := of_ite_ne_none h
    rw [faultOf, if_pos hc, exec_ldB_of_gt s x (by omega)]
  | ldMemVx x =>
    have hc := of_ite_ne_none h
    rw [faultOf, if_pos hc, exec_ldMemVx_of_gt s x hc]
  | ldVxMem x =>
    have hc := of_ite_ne_none h
    rw [faultOf, if_pos hc, exec_ldVxMem_of_gt s x hc]
  | _ => exact absurd rfl h

/-! Where an instruction with a fault raises none. -/

theorem sp_lt_of_call {nnn : Addr12} (h : faultOf (.call nnn) s = .none) : s.sp.val < 16 := by
  have : s.sp.val ≠ 16 := by simpa [faultOf] using h
  omega

theorem sp_pos_of_ret {z : Nibble} (h : faultOf (.ret z) s = .none) : 0 < s.sp.val := by
  simpa [faultOf, Nat.pos_iff_ne_zero] using h

theorem range_of_drw {x y : RegIx} {n : Nibble} (h : faultOf (.drw x y n) s = .none) :
    n = 0 ∨ s.I.toNat + n.toNat - 1 ≤ 0xFFF := by
  have hin : ¬(1 ≤ n.toNat ∧ 0xFFF < s.I.toNat + n.toNat - 1) := by simpa [faultOf] using h
  obtain h0 | hpos := Nat.eq_zero_or_pos n.toNat
  · exact .inl (BitVec.eq_of_toNat_eq h0)
  · exact .inr (by omega)

theorem range_of_ldB {x : RegIx} (h : faultOf (.ldB x) s = .none) : s.I.toNat ≤ 0xFFD := by
  have hin : ¬0xFFF < s.I.toNat + 2 := by simpa [faultOf] using h
  omega

theorem range_of_ldMemVx {x : RegIx} (h : faultOf (.ldMemVx x) s = .none) : s.I.toNat + x.val ≤ 0xFFF := by
  simpa [faultOf] using h

theorem range_of_ldVxMem {x : RegIx} (h : faultOf (.ldVxMem x) s = .none) : s.I.toNat + x.val ≤ 0xFFF := by
  simpa [faultOf] using h

end Outcome

/-! ### Completion -/

/-- The instructions that write `I` (R38). -/
def WritesIndex (i : Instr) : Prop := (∃ nnn, i = .ldI nnn) ∨ (∃ x, i = .addI x) ∨ (∃ x, i = .ldF x)

/-- The instructions that write `pc` and nothing else. -/
def WritesPcOnly (i : Instr) : Prop :=
  (∃ nnn, i = .jp nnn ∨ i = .jpV0 nnn) ∨ (∃ x nn, i = .seImm x nn ∨ i = .sneImm x nn) ∨
  (∃ x y n, i = .seReg x y n ∨ i = .sneReg x y n) ∨ (∃ x, i = .skp x ∨ i = .sknp x)

/-- How an instruction that raises no fault can leave the state: one constructor per kind of write. -/
inductive Completes (s : State) : Instr → State → Prop
  | regs {i : Instr} (V : Vector Byte 16) (h : ∀ k, { s with V := V }.reg k ≠ s.reg k → mayWriteReg i k) :
      Completes s i { s with V := V }
  | rnd (x : RegIx) (nn b : Byte) : Completes s (.rnd x nn) (s.countDraw.setReg x b)
  | index {i : Instr} (w : Word) (h : WritesIndex i) : Completes s i (s.setI w)
  | jump {i : Instr} (w : Word) (h : WritesPcOnly i) (hw : s.pc.toNat ≤ 0x1000 → w.toNat ≤ 0x10FE) :
      Completes s i (s.setPc w)
  | call (nnn : Addr12) (h : s.sp.val < 16) :
      Completes s (.call nnn)
        { s with stack := s.stack.set s.sp.val s.pc, sp := ⟨s.sp.val + 1, by omega⟩, pc := zextAddr nnn }
  | ret (z : Nibble) (h : 0 < s.sp.val) :
      Completes s (.ret z) { s with sp := ⟨s.sp.val - 1, by omega⟩, pc := s.stack[s.sp.val - 1] }
  | delay (x : RegIx) : Completes s (.ldDtVx x) (s.setDT (s.reg x))
  | sound (x : RegIx) : Completes s (.ldStVx x) (s.setST (s.reg x))
  | clear (z : Nibble) : Completes s (.cls z) (s.setFb blankFrame)
  | draw (x y : RegIx) (n : Nibble) (f : Frame) (b : Byte) : Completes s (.drw x y n) ((s.setFb f).setReg flagIx b)
  | store {i : Instr} (m : Memory) (h : ∃ x, i = .ldB x ∨ i = .ldMemVx x)
      (hm : Memory.wf s.mem = true → Memory.wf m = true) : Completes s i (s.setMem m)
  | wait (x : RegIx) (h : s.keys = 0) : Completes s (.ldVxK x) (s.enterWaiting x)

section Completes
variable {s t : State} {i : Instr}

theorem Completes.setReg {x : RegIx} {b : Byte} (h : mayWriteReg i x) : Completes s i (s.setReg x b) := by
  refine .regs _ fun k hk => ?_
  have hkx : k = x := by
    by_contra hne
    exact hk (reg_setReg_other s x b k hne)
  exact hkx ▸ h

theorem Completes.setFlagThenReg {x : RegIx} {f b : Byte} (hx : mayWriteReg i x) (hf : mayWriteReg i 15) :
    Completes s i (s.setFlagThenReg x f b) := by
  refine .regs _ fun k hk => ?_
  by_cases hkx : k = x
  · exact hkx ▸ hx
  · have hkf : k = 15 := by
      by_contra hne
      exact hk (reg_setFlagThenReg_other s x f b k hkx hne)
    exact hkf ▸ hf

theorem Completes.loadRegs {x : RegIx} {a : Nat} : Completes s (.ldVxMem x) (s.loadRegs a x) := by
  refine .regs _ fun k hk => ?_
  by_contra hlt
  exact hk ((s.reg_loadRegs a x k).trans (if_neg hlt))

/-- A skip from an advanced `pc` stays below the largest `pc` (10_state.md R23). -/
theorem Completes.skip (c : Prop) [Decidable c] (h : WritesPcOnly i) :
    Completes s i (s.setPc (if c then s.pc + 2 else s.pc)) ∧
      Completes s i (s.setPc (if c then s.pc else s.pc + 2)) := by
  refine ⟨.jump _ h fun hpc => ?_, .jump _ h fun hpc => ?_⟩
  · split <;> bv_omega
  · split <;> bv_omega

/-- An instruction whose rule names no fault completes. -/
theorem exec_completes (i : Instr) (s : State) (h : faultOf i s = .none) :
    ∃ t, exec i s = .next t ∧ Completes s i t := by
  cases i with
  | cls z => exact ⟨_, exec_cls s z, .clear z⟩
  | ret z => exact ⟨_, exec_ret_of_pos s z (sp_pos_of_ret h), .ret z (sp_pos_of_ret h)⟩
  | jp nnn => exact ⟨_, exec_jp nnn s, .jump _ (.inl ⟨nnn, .inl rfl⟩) fun _ => by rw [zextAddr_toNat]; omega⟩
  | call nnn => exact ⟨_, exec_call_of_lt s nnn (sp_lt_of_call h), .call nnn (sp_lt_of_call h)⟩
  | seImm x nn => exact ⟨_, exec_seImm s x nn, (Completes.skip _ (.inr (.inl ⟨x, nn, .inl rfl⟩))).1⟩
  | sneImm x nn => exact ⟨_, exec_sneImm s x nn, (Completes.skip _ (.inr (.inl ⟨x, nn, .inr rfl⟩))).2⟩
  | seReg x y n => exact ⟨_, exec_seReg s x y n, (Completes.skip _ (.inr (.inr (.inl ⟨x, y, n, .inl rfl⟩)))).1⟩
  | ldImm x nn => exact ⟨_, exec_ldImm s x nn, .setReg rfl⟩
  | addImm x nn => exact ⟨_, exec_addImm s x nn, .setReg rfl⟩
  | ldReg x y => exact ⟨_, exec_ldReg s x y, .setReg rfl⟩
  | orReg x y => exact ⟨_, exec_orReg s x y, .setReg rfl⟩
  | andReg x y => exact ⟨_, exec_andReg s x y, .setReg rfl⟩
  | xorReg x y => exact ⟨_, exec_xorReg s x y, .setReg rfl⟩
  | addReg x y => exact ⟨_, exec_addReg s x y, .setFlagThenReg (.inl rfl) (.inr rfl)⟩
  | sub x y => exact ⟨_, exec_sub s x y, .setFlagThenReg (.inl rfl) (.inr rfl)⟩
  | shr x z => exact ⟨_, exec_shr s x z, .setFlagThenReg (.inl rfl) (.inr rfl)⟩
  | subn x y => exact ⟨_, exec_subn s x y, .setFlagThenReg (.inl rfl) (.inr rfl)⟩
  | shl x z => exact ⟨_, exec_shl s x z, .setFlagThenReg (.inl rfl) (.inr rfl)⟩
  | sneReg x y n => exact ⟨_, exec_sneReg s x y n, (Completes.skip _ (.inr (.inr (.inl ⟨x, y, n, .inr rfl⟩)))).2⟩
  | ldI nnn => exact ⟨_, exec_ldI s nnn, .index _ (.inl ⟨nnn, rfl⟩)⟩
  | jpV0 nnn =>
    exact ⟨_, exec_jpV0 s nnn, .jump _ (.inl ⟨nnn, .inr rfl⟩) fun _ => by rw [toNat_zextByte_add_zextAddr]; omega⟩
  | rnd x nn => exact ⟨_, exec_rnd s x nn, .rnd x nn _⟩
  | drw x y n => exact ⟨_, exec_drw_drwResult s x y n (range_of_drw h), .draw x y n _ _⟩
  | skp x => exact ⟨_, exec_skp s x, (Completes.skip _ (.inr (.inr (.inr ⟨x, .inl rfl⟩)))).1⟩
  | sknp x => exact ⟨_, exec_sknp s x, (Completes.skip _ (.inr (.inr (.inr ⟨x, .inr rfl⟩)))).2⟩
  | ldVxDt x => exact ⟨_, exec_ldVxDt s x, .setReg rfl⟩
  | ldVxK x =>
    by_cases hkeys : s.keys = 0
    · exact ⟨_, exec_ldVxK_of_none s x hkeys, .wait x hkeys⟩
    · obtain ⟨k, -, hexec⟩ := exec_ldVxK_of_some s x hkeys
      exact ⟨_, hexec, .setReg rfl⟩
  | ldDtVx x => exact ⟨_, exec_ldDtVx s x, .delay x⟩
  | ldStVx x => exact ⟨_, exec_ldStVx s x, .sound x⟩
  | addI x => exact ⟨_, exec_addI s x, .index _ (.inr (.inl ⟨x, rfl⟩))⟩
  | ldF x => exact ⟨_, exec_ldF s x, .index _ (.inr (.inr ⟨x, rfl⟩))⟩
  | ldB x =>
    have hrange := range_of_ldB h
    refine ⟨_, exec_ldB_of_le s x hrange, .store _ ⟨x, .inl rfl⟩ fun hwf => ?_⟩
    exact Memory.wf_writeBytes _ _ _ hwf (.inr (Nat.add_le_add_right hrange 2))
  | ldMemVx x =>
    have hrange := range_of_ldMemVx h
    refine ⟨_, exec_ldMemVx_of_le s x hrange, .store _ ⟨x, .inr rfl⟩ fun hwf => ?_⟩
    exact Memory.wf_writeBytes _ _ _ hwf (.inr (by rw [State.length_regsUpTo]; exact hrange))
  | ldVxMem x => exact ⟨_, exec_ldVxMem_of_le s x (range_of_ldVxMem h), .loadRegs⟩
  | nop w => exact ⟨_, exec_nop w s, .regs s.V fun _ hk => absurd rfl hk⟩

/-- Everything an instruction that answers `t` can have done. -/
theorem exec_cases (h : exec i s = .next t) :
    (faultOf i s ≠ .none ∧ t = s.raiseFault (faultOf i s)) ∨ (faultOf i s = .none ∧ Completes s i t) := by
  by_cases hf : faultOf i s = .none
  · obtain ⟨u, hu, hc⟩ := exec_completes i s hf
    injection hu.symm.trans h with hut
    exact .inr ⟨hf, hut ▸ hc⟩
  · injection (exec_of_fault hf).symm.trans h with ht
    exact .inl ⟨hf, ht.symm⟩

/-! ### What completion keeps -/

theorem Completes.faultCause_eq (h : Completes s i t) : t.faultCause = s.faultCause := by cases h <;> rfl

/-- Completion keeps the mode, but for LD VX, K with no key pressed (R193). -/
theorem Completes.mode_cases (h : Completes s i t) :
    t.mode = s.mode ∨ ∃ x, i = .ldVxK x ∧ s.keys = 0 ∧ t = s.enterWaiting x := by
  cases h with
  | wait x hk => exact .inr ⟨x, rfl, hk, rfl⟩
  | _ => exact .inl rfl

theorem Completes.mem_wf (h : Completes s i t) (hs : Memory.wf s.mem = true) : Memory.wf t.mem = true := by
  cases h with
  | store m _ hm => exact hm hs
  | _ => exact hs

/-- From an advanced `pc` and a stack of advanced `pc`s, `pc` stays within its bound (R23). -/
theorem Completes.pc_le (h : Completes s i t) (hpc : s.pc.toNat ≤ 0x1000)
    (hstack : ∀ k : Fin 16, s.stack[k].toNat ≤ 0x1000) : t.pc.toNat ≤ 0x10FE := by
  cases h with
  | jump w _ hw => exact hw hpc
  | call nnn _ => simp only [zextAddr_toNat]; omega
  | ret z hsp =>
    have := hstack ⟨s.sp.val - 1, by omega⟩
    simp only [Fin.getElem_fin] at this ⊢
    omega
  | _ => exact hpc.trans (by decide)

theorem Completes.stack_le (h : Completes s i t) (hpc : s.pc.toNat ≤ 0x1000)
    (hstack : ∀ k : Fin 16, s.stack[k].toNat ≤ 0x1000) (k : Fin 16) : t.stack[k].toNat ≤ 0x1000 := by
  cases h with
  | call nnn hsp =>
    simp only [Fin.getElem_fin, Vector.getElem_set]
    split
    · exact hpc
    · exact hstack k
  | _ => exact hstack k

end Completes
end Sys2Proof.Proofs
end

section
/-! PROOFS. The obligations about every instruction at once: faults, writers, destinations and inputs (10_state.md R21,
R38, 60_exceptions.md R210 to R217, 70_reset_and_hazards.md R250). -/

namespace Sys2Proof.Proofs
open Sys2Proof.Machine

/-- Settles O23: the fault by `exec_of_fault`; otherwise the instruction completes, which keeps the cause and enters no
mode but WAITING. -/
theorem faultsArePreciseAndOnlyThese : Obligations.FaultsArePreciseAndOnlyThese := by
  refine fun i s => ⟨exec_of_fault, fun hf => ?_⟩
  obtain ⟨t, ht, hc⟩ := exec_completes i s hf
  refine ⟨t, ht, hc.faultCause_eq, fun hmode => ?_⟩
  obtain hkeep | ⟨x, -, -, rfl⟩ := hc.mode_cases
  · rwa [hkeep]
  · exact Mode.noConfusion

/-- Settles O26: a fault writes the cause and the mode alone; completion by its kinds of write. -/
theorem eachStateHasItsWriters : Obligations.EachStateHasItsWriters := by
  intro i s t h
  obtain ⟨hf, rfl⟩ | ⟨-, hc⟩ := exec_cases h
  · simp [hf]
  · cases hc with
    | index w hi => exact ⟨fun _ => hi, by simp⟩
    | jump w hi _ =>
      refine ⟨by simp, fun _ => ?_, by simp⟩
      obtain ⟨nnn, hj | hj⟩ | hrest := hi
      · exact .inl ⟨nnn, .inl hj⟩
      · exact .inl ⟨nnn, .inr (.inr hj)⟩
      · exact .inr (.inr hrest)
    | store m hi _ => simp [hi]
    | _ => simp

/-- Settles O27: of the kinds of completion only those of register writes change a register. -/
theorem registersChangeOnlyAsDestinations : Obligations.RegistersChangeOnlyAsDestinations := by
  intro i s t k h hk
  obtain ⟨-, rfl⟩ | ⟨-, hc⟩ := exec_cases h
  · exact absurd rfl hk
  · cases hc with
    | regs V hV => exact hV k hk
    | rnd x nn b =>
      by_contra hne
      exact hk (reg_setReg_other s.countDraw x b k hne)
    | draw x y n f b =>
      by_contra hne
      exact hk (reg_setReg_other (s.setFb f) flagIx b k hne)
    | _ => exact absurd rfl hk

end Sys2Proof.Proofs
end

section
/-! PROOFS. Keys, draws and timers reach only the instructions that read them (70_reset_and_hazards.md R250). -/

namespace Sys2Proof.Proofs
open Sys2Proof.Machine

/-- The next state of a result, changed. -/
def mapNext (f : State → State) : Result → Result
  | .next t => .next (f t)
  | .fault r => .fault r
  | .refused r => .refused r

/-- The keys, the draw counter and the timers of a state, changed. -/
def mapInputs (onKeys : BitVec 16 → BitVec 16) (onDraws : Nat → Nat) (onDT onST : Byte → Byte) (s : State) : State :=
  { s with keys := onKeys s.keys, draws := onDraws s.draws, DT := onDT s.DT, ST := onST s.ST }

def ReadsKeys (i : Instr) : Prop := ∃ x, i = .skp x ∨ i = .sknp x ∨ i = .ldVxK x

def UsesDraws (i : Instr) : Prop := ∃ x nn, i = .rnd x nn

def UsesTimers (i : Instr) : Prop := ∃ x, i = .ldVxDt x ∨ i = .ldDtVx x ∨ i = .ldStVx x

section Inputs
variable {onKeys : BitVec 16 → BitVec 16} {onDraws : Nat → Nat} {onDT onST : Byte → Byte}

/-- An instruction commutes with every change of the inputs it does not use. -/
theorem exec_mapInputs (i : Instr) (s : State) (hkeys : ReadsKeys i → onKeys = id) (hdraws : UsesDraws i → onDraws = id)
    (htimers : UsesTimers i → onDT = id ∧ onST = id) :
    exec i (mapInputs onKeys onDraws onDT onST s) = mapNext (mapInputs onKeys onDraws onDT onST) (exec i s) := by
  have hfault : faultOf i (mapInputs onKeys onDraws onDT onST s) = faultOf i s := faultOf_congr i rfl rfl
  by_cases h : faultOf i s ≠ .none
  · rw [exec_of_fault h, exec_of_fault (hfault ▸ h), hfault]; rfl
  rw [not_not] at h
  cases i with
  | call nnn =>
    rw [exec_call_of_lt s nnn (sp_lt_of_call h), exec_call_of_lt _ nnn (sp_lt_of_call (hfault.trans h))]; rfl
  | ret z =>
    rw [exec_ret_of_pos s z (sp_pos_of_ret h), exec_ret_of_pos _ z (sp_pos_of_ret (hfault.trans h))]; rfl
  | drw x y n =>
    rw [exec_drw_of_le s x y n (range_of_drw h), exec_drw_of_le _ x y n (range_of_drw (hfault.trans h))]; rfl
  | ldB x => rw [exec_ldB_of_le s x (range_of_ldB h), exec_ldB_of_le _ x (range_of_ldB (hfault.trans h))]; rfl
  | ldMemVx x =>
    rw [exec_ldMemVx_of_le s x (range_of_ldMemVx h), exec_ldMemVx_of_le _ x (range_of_ldMemVx (hfault.trans h))]; rfl
  | ldVxMem x =>
    rw [exec_ldVxMem_of_le s x (range_of_ldVxMem h), exec_ldVxMem_of_le _ x (range_of_ldVxMem (hfault.trans h))]; rfl
  | seImm x nn => rw [exec_seImm, exec_seImm]; rfl
  | sneImm x nn => rw [exec_sneImm, exec_sneImm]; rfl
  | seReg x y n => rw [exec_seReg, exec_seReg]; rfl
  | sneReg x y n => rw [exec_sneReg, exec_sneReg]; rfl
  | skp x =>
    obtain rfl := hkeys ⟨x, .inl rfl⟩
    rw [exec_skp, exec_skp]; rfl
  | sknp x =>
    obtain rfl := hkeys ⟨x, .inr (.inl rfl)⟩
    rw [exec_sknp, exec_sknp]; rfl
  | ldVxK x =>
    obtain rfl := hkeys ⟨x, .inr (.inr rfl)⟩
    simp only [exec, execLdVxK, mapInputs, id]
    cases lowestKey s.keys <;> rfl
  | rnd x nn =>
    obtain rfl := hdraws ⟨x, nn, rfl⟩
    rfl
  | ldVxDt x =>
    obtain ⟨rfl, rfl⟩ := htimers ⟨x, .inl rfl⟩
    rfl
  | ldDtVx x =>
    obtain ⟨rfl, rfl⟩ := htimers ⟨x, .inr (.inl rfl)⟩
    rfl
  | ldStVx x =>
    obtain ⟨rfl, rfl⟩ := htimers ⟨x, .inr (.inr rfl)⟩
    rfl
  | _ => rfl

/-- The same for an instruction that answers `t`. -/
theorem exec_mapInputs_next {i : Instr} {s t : State} (h : exec i s = .next t) (hkeys : ReadsKeys i → onKeys = id)
    (hdraws : UsesDraws i → onDraws = id) (htimers : UsesTimers i → onDT = id ∧ onST = id) :
    exec i (mapInputs onKeys onDraws onDT onST s) = .next (mapInputs onKeys onDraws onDT onST t) := by
  rw [exec_mapInputs i s hkeys hdraws htimers, h]; rfl

end Inputs

/-- Settles O28: each clause changes one kind of input (`exec_mapInputs_next`); LD DT and LD ST write a timer without
reading one. -/
theorem inputsReachOnlyTheirReaders : Obligations.InputsReachOnlyTheirReaders := by
  refine fun i s t h => ⟨fun hno ks => ?_, fun hno d => ?_, fun hno d e => ?_⟩
  · refine exec_mapInputs_next (onKeys := fun _ => ks) (onDraws := id) (onDT := id) (onST := id) h ?_
      (fun _ => rfl) (fun _ => ⟨rfl, rfl⟩)
    rintro ⟨x, hx | hx | hx⟩
    · exact absurd hx (hno x).1
    · exact absurd hx (hno x).2.1
    · exact absurd hx (hno x).2.2
  · refine exec_mapInputs_next (onKeys := id) (onDraws := fun _ => d) (onDT := id) (onST := id) h
      (fun _ => rfl) ?_ (fun _ => ⟨rfl, rfl⟩)
    rintro ⟨x, nn, hx⟩
    exact absurd hx (hno x nn)
  · by_cases htimers : UsesTimers i
    · obtain ⟨x, rfl | rfl | rfl⟩ := htimers
      · exact absurd rfl (hno x)
      · injection (exec_ldDtVx s x).symm.trans h with ht
        exact ⟨_, rfl, by rw [← ht]; rfl⟩
      · injection (exec_ldStVx s x).symm.trans h with ht
        exact ⟨_, rfl, by rw [← ht]; rfl⟩
    · exact ⟨_, exec_mapInputs_next (onKeys := id) (onDraws := id) (onDT := fun _ => d) (onST := fun _ => e) h
        (fun _ => rfl) (fun _ => rfl) (fun hu => absurd hu htimers), rfl⟩

end Sys2Proof.Proofs
end

section
/-! PROOFS. The obligations about single events (40_cycle.md R90 to R94, 60_exceptions.md R211, R222, R223,
70_reset_and_hazards.md R240 to R242, 10_state.md R33, R36). -/

namespace Sys2Proof.Proofs
open Sys2Proof.Machine

/-! ### LOAD -/

theorem onLoadIdle_of_le (s : State) (image : List Byte) (h : image.length ≤ 3584) :
    s.onLoadIdle image =
      { s with mem := Memory.writeBytes s.mem 0x200 image, pc := 0x200, mode := .running, signal := .loadOk } :=
  if_neg (Nat.not_lt.mpr h)

theorem onLoadIdle_of_gt (s : State) (image : List Byte) (h : 3584 < image.length) :
    s.onLoadIdle image = s.setSignal .loadError :=
  if_pos h

theorem step_load_idle {s : State} {image : List Byte} (hev : s.nextEvent = .load image) (hmode : s.mode = .idle) :
    step s = .next (s.takeEvent.onLoadIdle image) := by
  rw [step_load s image hev, State.onLoad, State.takeEvent_mode, if_pos hmode]

theorem step_load_not_idle {s : State} {image : List Byte} (hev : s.nextEvent = .load image) (hmode : s.mode ≠ .idle) :
    step s = .refused .loadNotIdle := by
  rw [step_load s image hev, State.onLoad, State.takeEvent_mode, if_neg hmode]

/-- Settles O18: the image is one run of bytes written from 0x200 on (`read_writeBytes_getElem`). -/
theorem loadCopiesTheImage : Obligations.LoadCopiesTheImage := by
  intro s image hev hmode hlen hwf
  have hload := step_load_idle hev hmode
  rw [onLoadIdle_of_le s.takeEvent image hlen] at hload
  refine ⟨_, hload, rfl, rfl, rfl, fun j hj => ?_, fun a ha => ?_, rfl⟩
  · exact read_writeBytes_getElem (by rwa [State.takeEvent_mem]) (by omega) j hj
  · rw [Memory.read_writeBytes_outside _ _ _ _ ha, State.takeEvent_mem]

/-- Settles O19: the two branches of LOAD that do not run the image. -/
theorem loadThatDoesNotRun : Obligations.LoadThatDoesNotRun := by
  refine fun s image hev => ⟨fun hmode hlen => ?_, step_load_not_idle hev⟩
  rw [step_load_idle hev hmode, onLoadIdle_of_gt _ _ hlen]; rfl

/-! ### Cycles -/

/-- Settles O9: the two bytes at `pc` are the word fetched, and its cycle is `step_of_fetch`. -/
theorem stepRunsDecodedInstruction : Obligations.StepRunsDecodedInstruction := by
  intro s i hcycle hmode hpc hbytes
  obtain ⟨t, ht⟩ := exec_next i (s.takeEvent.setPc (s.pc + 2))
  have hdecode : decode (wordOfBytes (Memory.read s.mem s.pc.toNat) (Memory.read s.mem (s.pc.toNat + 1))) = i := by
    simpa [decodeBytes] using hbytes
  exact ⟨t, ht, step_of_fetch hcycle hmode (Memory.fetch_some s.mem s.pc hpc) (hdecode ▸ ht)⟩

theorem step_of_fetch_none {s : State} (hcycle : s.nextEvent = .cycle) (hmode : s.mode = .running)
    (hpc : 0xFFE < s.pc.toNat) : step s = .next ((s.takeEvent.raiseFault .fetchOob).setSignal .update) := by
  have hrun : s.takeEvent.runCycle = .next (s.takeEvent.raiseFault .fetchOob) := by
    simp [State.runCycle, Memory.fetch_none s.mem s.pc hpc]
  simp [step_cycle s hcycle, State.onCycle, hmode, hrun, endCycle]

/-- Settles O10: the cycle by `step_of_fetch_none`; an instruction either raises a fault of its rule, which is never
FETCH_OOB, or keeps the cause. -/
theorem fetchOutOfRangeHalts : Obligations.FetchOutOfRangeHalts := by
  refine ⟨fun s hcycle hmode hpc => ⟨_, step_of_fetch_none hcycle hmode hpc, rfl⟩, fun i s t h hs => ?_⟩
  obtain ⟨-, rfl⟩ | ⟨-, hc⟩ := exec_cases h
  · exact faultOf_ne_fetchOob i s
  · rwa [hc.faultCause_eq]

theorem step_waiting {s : State} (hcycle : s.nextEvent = .cycle) (hmode : s.mode = .waiting) :
    step s = .next (s.takeEvent.pollCycle.setSignal .update) := by
  simp [step_cycle s hcycle, State.onCycle, hmode, endCycle]

theorem pollCycle_of_none {s : State} (h : s.keys = 0) : s.pollCycle = s := by
  rw [State.pollCycle, (lowestKey_eq_none s.keys).mpr h]

theorem pollCycle_of_some {s : State} {k : Nat} (h : lowestKey s.keys = some k) :
    s.pollCycle = { s.setReg s.waitX (BitVec.ofNat 8 k) with mode := .running } := by
  rw [State.pollCycle, h]

/-- Settles O11: `lowestKey_eq_some` says which key the poll takes. -/
theorem waitingPollsTheKeypad : Obligations.WaitingPollsTheKeypad := by
  refine fun s hcycle hmode => ⟨fun hkeys => ?_, fun k hk hdown hlow => ?_⟩
  · rw [step_waiting hcycle hmode, pollCycle_of_none (by rwa [State.takeEvent_keys])]; rfl
  · have hkey : lowestKey s.takeEvent.keys = some k := by
      rw [State.takeEvent_keys]; exact (lowestKey_eq_some s.keys k).mpr ⟨hk, hdown, hlow⟩
    refine ⟨_, by rw [step_waiting hcycle hmode, pollCycle_of_some hkey], fun r => ?_, rfl⟩
    refine (State.reg_setReg s.takeEvent s.takeEvent.waitX r _).trans ?_
    rw [State.takeEvent_waitX, State.reg_takeEvent]

theorem step_resting {s : State} (hcycle : s.nextEvent = .cycle) (hmode : s.mode = .idle ∨ s.mode = .halted) :
    step s = .next s.takeEvent := by
  obtain h | h := hmode <;> simp [step_cycle s hcycle, State.onCycle, h]

/-- Settles O12: the cycle only takes the event, whose signal is quiet. -/
theorem idleAndHaltedCyclesDoNothing : Obligations.IdleAndHaltedCyclesDoNothing := by
  intro s hcycle hmode
  rw [State.takeEvent_setSignal_quiet, step_resting hcycle hmode]

/-! ### Ticks -/

/-- Settles O13: the tick decrements both timers (`toNat_decTimer`). -/
theorem tickDecrementsBothTimers : Obligations.TickDecrementsBothTimers := by
  refine fun s htick => ⟨_, step_tick s htick, ?_, ?_, rfl⟩
  · exact (toNat_decTimer s.takeEvent.DT).trans (by rw [State.takeEvent_DT])
  · exact (toNat_decTimer s.takeEvent.ST).trans (by rw [State.takeEvent_ST])

/-- One step of a longer run. -/
theorem run_succ_of_step {s t : State} (n : Nat) (h : step s = .next t) :
    Host.Core.run Sys2Proof.core (n + 1) s = Host.Core.run Sys2Proof.core n t := by
  have hcore : Sys2Proof.core.step s = .next t := h
  simp only [Host.Core.run, hcore]

/-- The step of a pending tick. -/
theorem step_pending_tick (s : State) (rest : List Event) :
    step { s with pending := .tick :: rest } =
      .next { s with DT := decTimer s.DT, ST := decTimer s.ST, signal := .quiet, pending := rest } := rfl

/-- Settles O14: by induction on the number of ticks, each one less than before on both timers. -/
theorem timersAfterTicks : Obligations.TimersAfterTicks := by
  intro n
  induction n with
  | zero => exact fun s rest => ⟨_, rfl, rfl, rfl, rfl⟩
  | succ n ih =>
    intro s rest
    obtain ⟨t, hrun, hDT, hST, ht⟩ := ih { s with DT := decTimer s.DT, ST := decTimer s.ST, signal := .quiet } rest
    refine ⟨t, (run_succ_of_step n (step_pending_tick s _)).trans hrun, ?_, ?_, ht⟩
    · rw [hDT, toNat_decTimer]; omega
    · rw [hST, toNat_decTimer]; omega

/-! ### Key changes -/

/-- A press sets the key's bit alone, an unrecognized identifier none (R33). -/
theorem getLsbD_setKey_down (keys : BitVec 16) (k j : Nat) (hj : j < 16) :
    (setKey keys k true).getLsbD j = (keys.getLsbD j || j == k) := by
  by_cases hk : k ≤ 15
  · rw [setKey, if_pos hk, if_pos rfl, BitVec.getLsbD_or, BitVec.getLsbD_twoPow]
    simp [hj, Nat.lt_succ_of_le hk, eq_comm, beq_eq_decide]
  · have : (j == k) = false := beq_false_of_ne (by omega)
    rw [setKey, if_neg hk, this, Bool.or_false]

/-- A release clears the key's bit alone. -/
theorem getLsbD_setKey_up (keys : BitVec 16) (k j : Nat) (hj : j < 16) :
    (setKey keys k false).getLsbD j = (keys.getLsbD j && j != k) := by
  by_cases hk : k ≤ 15
  · rw [setKey, if_pos hk, if_neg Bool.false_ne_true, BitVec.getLsbD_and, BitVec.getLsbD_not, BitVec.getLsbD_twoPow]
    simp [hj, Nat.lt_succ_of_le hk, eq_comm, bne, beq_eq_decide]
  · have : (j != k) = true := bne_iff_ne.mpr (by omega)
    rw [setKey, if_neg hk, this, Bool.and_true]

/-- Settles O15: by the bits of `setKey`. -/
theorem keyChangesSetOneBit : Obligations.KeyChangesSetOneBit := by
  refine fun s k => ⟨fun hev => ⟨_, step_press s k hev, fun j hj => ?_, rfl⟩,
    fun hev => ⟨_, step_release s k hev, fun j hj => ?_, rfl⟩⟩
  · rw [← s.takeEvent_keys]; exact getLsbD_setKey_down _ k j hj
  · rw [← s.takeEvent_keys]; exact getLsbD_setKey_up _ k j hj

/-! ### RESET -/

/-- Settles O16: RESET keeps the key input and the draw counter, which taking the event left alone. -/
theorem resetGivesTheResetState : Obligations.ResetGivesTheResetState := by
  intro s hev
  rw [step_reset s hev, State.onReset, State.takeEvent_keys, State.takeEvent_draws]

/-- The font table is the glyphs one after the other, five rows each (R52). -/
theorem glyphRows_eq_fontTable :
    ∀ d < 16, ∀ r < 5, (glyphRows[d]?.bind fun g => g[r]?) = some (fontTable.getD (5 * d + r) 0) := by decide

/-- Settles O17: nothing is listed in memory after reset, so it reads as the reset contents, the font among them. -/
theorem resetValues : Obligations.ResetValues := by
  have hfont := fontBase_add_le
  refine ⟨fun k => ?_, rfl, rfl, fun k => ?_, rfl, rfl, rfl, rfl, rfl, rfl, rfl, pixel_blankFrame, hfont,
    fun d r hd hr => ?_, Memory.initial_zero⟩
  · simp [State.reg, State.reset]
  · simp [State.reset]
  · have hread : Memory.read State.reset.mem (fontBase + 5 * d + r) = fontTable.getD (5 * d + r) 0 := by
      rw [Nat.add_assoc]
      refine (Memory.initial_font _ hfont (by omega) (by omega)).trans ?_
      rw [Nat.add_sub_cancel_left]
    rw [hread, glyphRows_eq_fontTable d hd r hr]

/-! ### What is refused -/

/-- Settles O22: of the six kinds of event only LOAD is ever refused, and only outside IDLE; a cycle answers a next
state in every mode (`State.onCycle_cases`). -/
theorem onlyLoadOutsideIdleIsRefused : Obligations.OnlyLoadOutsideIdleIsRefused := by
  refine fun s => ⟨fun ⟨image, hev, hmode⟩ => step_load_not_idle hev hmode, fun hload => ?_⟩
  cases hev : s.nextEvent with
  | load image => exact ⟨_, step_load_idle hev (hload image hev)⟩
  | cycle =>
    rw [step_cycle s hev]
    obtain ⟨-, h⟩ | ⟨-, h⟩ | ⟨-, t, -, h⟩ := s.takeEvent.onCycle_cases
    · exact ⟨_, h⟩
    · exact ⟨_, h⟩
    · exact ⟨_, h⟩
  | reset => exact ⟨_, step_reset s hev⟩
  | tick => exact ⟨_, step_tick s hev⟩
  | press k => exact ⟨_, step_press s k hev⟩
  | release k => exact ⟨_, step_release s k hev⟩

/-- Settles O24: in HALTED a cycle only takes the event, LOAD is refused, and a tick or a key change touches its own
fields. -/
theorem haltedIsLeftOnlyByReset : Obligations.HaltedIsLeftOnlyByReset := by
  refine fun s hmode => ⟨fun hev => ⟨_, step_reset s hev, rfl, rfl⟩, fun t hev h => ?_⟩
  obtain ⟨hr, -⟩ | ⟨image, -, hidle, -⟩ | ⟨hcycle, -⟩ | ⟨-, rfl⟩ | ⟨k, -, rfl⟩ | ⟨k, -, rfl⟩ := step_cases s t h
  · exact absurd hr hev
  · exact absurd (hidle.symm.trans hmode) Mode.noConfusion
  · injection (step_resting hcycle (.inr hmode)).symm.trans h with ht
    rw [← ht]
  · rfl
  · rfl
  · rfl

end Sys2Proof.Proofs
end

section
/-! PROOFS. What a cycle can have done, said once, and with it the mode transitions and the invariant of the machine
(40_cycle.md R90 to R94, 10_state.md R23, R24, R29, R31, R36). -/

namespace Sys2Proof.Proofs
open Sys2Proof.Machine

/-! ### Cycles -/

/-- The state on which a cycle in RUNNING executes: the event taken and `pc` advanced (R91). -/
def advanced (s : State) : State := s.takeEvent.setPc (s.pc + 2)

/-- How a cycle can leave a machine, by its mode. -/
inductive CycleAnswers (s : State) : State → Prop
  | rest (hmode : s.mode = .idle ∨ s.mode = .halted) : CycleAnswers s s.takeEvent
  | polled (hmode : s.mode = .waiting) (k : Nat) (hk : lowestKey s.keys = some k) :
      CycleAnswers s ({ s.takeEvent.setReg s.waitX (BitVec.ofNat 8 k) with mode := .running }.setSignal .update)
  | unpolled (hmode : s.mode = .waiting) : CycleAnswers s (s.takeEvent.setSignal .update)
  | fetchFault (hmode : s.mode = .running) (hpc : 0xFFE < s.pc.toNat) :
      CycleAnswers s ((s.takeEvent.raiseFault .fetchOob).setSignal .update)
  | faulted (hmode : s.mode = .running) (hpc : s.pc.toNat ≤ 0xFFE) (op : Word) (hop : Memory.fetch s.mem s.pc = some op)
      (hf : faultOf (decode op) s ≠ .none) :
      CycleAnswers s (((advanced s).raiseFault (faultOf (decode op) s)).setSignal .update)
  | completed (hmode : s.mode = .running) (hpc : s.pc.toNat ≤ 0xFFE) (op : Word)
      (hop : Memory.fetch s.mem s.pc = some op) (u : State) (hu : Completes (advanced s) (decode op) u) :
      CycleAnswers s (u.setSignal .update)

section Cycles
variable {s t : State}

theorem faultOf_advanced (i : Instr) : faultOf i (advanced s) = faultOf i s :=
  faultOf_congr i s.takeEvent_sp s.takeEvent_I

theorem cycleAnswers_waiting (hmode : s.mode = .waiting) :
    CycleAnswers s (s.takeEvent.pollCycle.setSignal .update) := by
  cases hk : lowestKey s.keys with
  | none =>
    rw [pollCycle_of_none (by rw [State.takeEvent_keys]; exact (lowestKey_eq_none s.keys).mp hk)]
    exact .unpolled hmode
  | some k =>
    rw [pollCycle_of_some (k := k) (by rwa [State.takeEvent_keys]), State.takeEvent_waitX]
    exact .polled hmode k hk

theorem cycleAnswers_running (hmode : s.mode = .running) (hpc : s.pc.toNat ≤ 0xFFE) {op : Word}
    (hop : Memory.fetch s.mem s.pc = some op) {u : State} (hu : exec (decode op) (advanced s) = .next u) :
    CycleAnswers s (u.setSignal .update) := by
  obtain ⟨hf, rfl⟩ | ⟨-, hc⟩ := exec_cases hu
  · rw [faultOf_advanced] at hf ⊢
    exact .faulted hmode hpc op hop hf
  · exact .completed hmode hpc op hop u hc

/-- Everything a cycle can have done. -/
theorem cycleAnswers (hcycle : s.nextEvent = .cycle) (h : step s = .next t) : CycleAnswers s t := by
  cases hmode : s.mode with
  | idle =>
    injection (step_resting hcycle (.inl hmode)).symm.trans h with ht
    exact ht ▸ .rest (.inl hmode)
  | halted =>
    injection (step_resting hcycle (.inr hmode)).symm.trans h with ht
    exact ht ▸ .rest (.inr hmode)
  | waiting =>
    injection (step_waiting hcycle hmode).symm.trans h with ht
    exact ht ▸ cycleAnswers_waiting hmode
  | running =>
    by_cases hpc : s.pc.toNat ≤ 0xFFE
    · have hop := Memory.fetch_some s.mem s.pc hpc
      obtain ⟨u, hu⟩ := exec_next (decode _) (advanced s)
      injection (step_of_fetch hcycle hmode hop hu).symm.trans h with ht
      exact ht ▸ cycleAnswers_running hmode hpc hop hu
    · injection (step_of_fetch_none hcycle hmode (by omega)).symm.trans h with ht
      exact ht ▸ .fetchFault hmode (by omega)

end Cycles

/-! ### Mode transitions -/

/-- Settles O25: a tick and a key change keep the mode, and so does a LOAD that is too long; for a cycle the transition
is read off `CycleAnswers`, where completion leaves RUNNING only for WAITING (`Completes.mode_cases`). -/
theorem modeTransitions : Obligations.ModeTransitions := by
  intro s t h hmode
  obtain ⟨hr, rfl⟩ | ⟨image, hev, hidle, rfl⟩ | ⟨hcycle, -⟩ | ⟨-, rfl⟩ | ⟨k, -, rfl⟩ | ⟨k, -, rfl⟩ := step_cases s t h
  · exact .inl ⟨hr, rfl⟩
  · obtain hlen | hlen := Nat.lt_or_ge 3584 image.length
    · rw [onLoadIdle_of_gt _ _ hlen] at hmode
      exact absurd s.takeEvent_mode hmode
    · rw [onLoadIdle_of_le _ _ hlen]
      exact .inr (.inl ⟨hidle, rfl, rfl, image, hev, hlen⟩)
  · cases cycleAnswers hcycle h with
    | rest _ => exact absurd s.takeEvent_mode hmode
    | unpolled _ => exact absurd s.takeEvent_mode hmode
    | polled hw k hk =>
      refine .inr (.inr (.inl ⟨hw, rfl, hcycle, fun hkeys => ?_⟩))
      exact Option.some_ne_none k (hk.symm.trans ((lowestKey_eq_none s.keys).mpr hkeys))
    | fetchFault hrun hpc => exact .inr (.inr (.inr ⟨hrun, hcycle, .inl ⟨hpc, rfl, rfl⟩⟩))
    | faulted hrun _ op hop hf => exact .inr (.inr (.inr ⟨hrun, hcycle, .inr ⟨op, hop, .inl ⟨rfl, rfl, hf⟩⟩⟩))
    | completed hrun _ op hop u hu =>
      obtain hkeep | ⟨x, hx, hkeys, rfl⟩ := hu.mode_cases
      · exact absurd (hkeep.trans s.takeEvent_mode) hmode
      · have hnone : s.keys = 0 := s.takeEvent_keys.symm.trans hkeys
        exact .inr (.inr (.inr ⟨hrun, hcycle, .inr ⟨op, hop, .inr ⟨rfl, hnone, hx⟩⟩⟩))
  · exact absurd s.takeEvent_mode hmode
  · exact absurd s.takeEvent_mode hmode
  · exact absurd s.takeEvent_mode hmode

/-! ### The core of a state -/

/-- A state without what lies outside the core: the key input, the signal and the model's own counters. -/
def coreOf (s : State) : State := { s with keys := 0, signal := .quiet, draws := 0, pending := [], events := 0 }

/-- In IDLE the invariant says that the core is the reset core. -/
theorem eq_reset_iff_core (s : State) :
    s = { State.reset with
      keys := s.keys, signal := s.signal, draws := s.draws, pending := s.pending, events := s.events } ↔
    coreOf s = State.reset := by
  cases s
  simp [coreOf, State.reset]

theorem core_takeEvent (s : State) : coreOf s.takeEvent = coreOf s := by
  rw [State.takeEvent_eq]; rfl

section Invariant
variable {s t : State}

theorem core_idle (hs : s.Inv) (hmode : s.mode = .idle) : coreOf s = State.reset :=
  (eq_reset_iff_core s).mp (hs.idleAsReset hmode)

/-- The invariant is about the core alone. -/
theorem inv_core : (coreOf s).Inv ↔ s.Inv where
  mp h := ⟨h.memCanonical, h.causeIffHalted, h.pcBound, h.stackBound,
    fun hidle => (eq_reset_iff_core s).mpr (h.idleAsReset hidle)⟩
  mpr h := ⟨h.memCanonical, h.causeIffHalted, h.pcBound, h.stackBound, core_idle (s := s) h⟩

theorem inv_of_core_eq (hs : s.Inv) (h : coreOf t = coreOf s) : t.Inv := by
  rw [← inv_core, h, inv_core]; exact hs

/-- Outside IDLE and HALTED the invariant asks for no cause and the bounds. -/
theorem inv_of_active (hidle : t.mode ≠ .idle) (hhalted : t.mode ≠ .halted) (hcause : t.faultCause = .none)
    (hmem : Memory.wf t.mem = true) (hpc : t.pc.toNat ≤ 0x10FE) (hstack : ∀ k : Fin 16, t.stack[k].toNat ≤ 0x1000) :
    t.Inv :=
  ⟨hmem, ⟨fun _ => hhalted, fun _ => hcause⟩, hpc, hstack, fun h => absurd h hidle⟩

/-- In HALTED it asks for a cause. -/
theorem inv_of_halted (hhalted : t.mode = .halted) (hcause : t.faultCause ≠ .none)
    (hmem : Memory.wf t.mem = true) (hpc : t.pc.toNat ≤ 0x10FE) (hstack : ∀ k : Fin 16, t.stack[k].toNat ≤ 0x1000) :
    t.Inv :=
  ⟨hmem, ⟨fun h => absurd h hcause, fun h => absurd hhalted h⟩, hpc, hstack,
    fun h => absurd (h.symm.trans hhalted) Mode.noConfusion⟩

/-- A machine that is not halted has no cause. -/
theorem cause_none (hs : s.Inv) (hmode : s.mode ≠ .halted) : s.faultCause = .none := hs.causeIffHalted.mpr hmode

/-- Taking an event keeps the bounds of the stack. -/
theorem takeEvent_stack_le (hs : s.Inv) (k : Fin 16) : s.takeEvent.stack[k].toNat ≤ 0x1000 := by
  rw [State.takeEvent_stack]; exact hs.stackBound k

theorem takeEvent_mem_wf (hs : s.Inv) : Memory.wf s.takeEvent.mem = true := by
  rw [State.takeEvent_mem]; exact hs.memCanonical

/-- An advanced `pc` is at most 0x1000, since a fetch asks for 0xFFE at most (R23, R57). -/
theorem advanced_pc_le (hpc : s.pc.toNat ≤ 0xFFE) : (advanced s).pc.toNat ≤ 0x1000 := by
  have : (advanced s).pc = s.pc + 2 := rfl
  rw [this]; bv_omega

end Invariant

/-- Settles O21: the reset state is its own core, and its memory lists nothing. -/
theorem resetMeetsInvariant : Obligations.ResetMeetsInvariant where
  memCanonical := Memory.wf_nil
  causeIffHalted := by decide
  pcBound := by decide
  stackBound := by decide
  idleAsReset _ := rfl

/-! ### Every event keeps the invariant -/

section Keeps
variable {s t : State}

theorem inv_onLoadIdle (hs : s.Inv) (hidle : s.mode = .idle) (image : List Byte) :
    (s.takeEvent.onLoadIdle image).Inv := by
  obtain hlen | hlen := Nat.lt_or_ge 3584 image.length
  · rw [onLoadIdle_of_gt _ _ hlen]
    exact inv_of_core_eq hs (core_takeEvent s)
  · rw [onLoadIdle_of_le _ _ hlen]
    have hcause := cause_none hs (by rw [hidle]; exact Mode.noConfusion)
    refine inv_of_active Mode.noConfusion Mode.noConfusion (s.takeEvent_faultCause.trans hcause) ?_ (by simp)
      (takeEvent_stack_le hs)
    exact Memory.wf_writeBytes _ _ _ (takeEvent_mem_wf hs) (.inr (by rw [memTop]; omega))

/-- A tick keeps the timers of an IDLE core at 0. -/
theorem inv_onTick (hs : s.Inv) : s.takeEvent.onTick.Inv where
  memCanonical := takeEvent_mem_wf hs
  causeIffHalted := (inv_of_core_eq hs (core_takeEvent s)).causeIffHalted
  pcBound := (inv_of_core_eq hs (core_takeEvent s)).pcBound
  stackBound := takeEvent_stack_le hs
  idleAsReset hidle := by
    have hcore : coreOf s.takeEvent = State.reset := (core_takeEvent s).trans (core_idle hs (s.takeEvent_mode ▸ hidle))
    rw [eq_reset_iff_core]
    calc coreOf s.takeEvent.onTick
      _ = (coreOf s.takeEvent).onTick := rfl
      _ = State.reset.onTick := by rw [hcore]
      _ = State.reset := rfl

theorem inv_of_cycleAnswers (hs : s.Inv) (h : CycleAnswers s t) : t.Inv := by
  have hstack := takeEvent_stack_le hs
  have hmem := takeEvent_mem_wf hs
  have hpcs : s.takeEvent.pc.toNat ≤ 0x10FE := by rw [State.takeEvent_pc]; exact hs.pcBound
  cases h with
  | rest _ => exact inv_of_core_eq hs (core_takeEvent s)
  | unpolled _ => exact inv_of_core_eq hs (core_takeEvent s)
  | polled hmode k _ =>
    have hcause := cause_none hs (by rw [hmode]; exact Mode.noConfusion)
    exact inv_of_active Mode.noConfusion Mode.noConfusion (s.takeEvent_faultCause.trans hcause) hmem hpcs hstack
  | fetchFault _ _ => exact inv_of_halted rfl FaultCause.noConfusion hmem hpcs hstack
  | faulted _ hpc op _ hf => exact inv_of_halted rfl hf hmem ((advanced_pc_le hpc).trans (by decide)) hstack
  | completed hmode hpc op _ u hu =>
    have hcause := cause_none hs (by rw [hmode]; exact Mode.noConfusion)
    have hu_mode : u.mode = .running ∨ u.mode = .waiting := by
      obtain hkeep | ⟨_, _, _, rfl⟩ := hu.mode_cases
      · exact .inl (hkeep.trans (s.takeEvent_mode.trans hmode))
      · exact .inr rfl
    refine inv_of_active ?_ ?_ (hu.faultCause_eq.trans (s.takeEvent_faultCause.trans hcause)) (hu.mem_wf hmem)
      (hu.pc_le (advanced_pc_le hpc) hstack) (hu.stack_le (advanced_pc_le hpc) hstack)
    · obtain h | h := hu_mode <;> rw [State.setSignal_mode, h] <;> exact Mode.noConfusion
    · obtain h | h := hu_mode <;> rw [State.setSignal_mode, h] <;> exact Mode.noConfusion

end Keeps

/-- Settles O20: RESET, a key change and a cycle that does nothing are within `inv_of_core_eq`; LOAD, the tick and the
cycle have their lemmas above. -/
theorem stepKeepsInvariant : Obligations.StepKeepsInvariant := by
  intro s t hs h
  obtain ⟨-, rfl⟩ | ⟨image, -, hidle, rfl⟩ | ⟨hcycle, -⟩ | ⟨-, rfl⟩ | ⟨k, -, rfl⟩ | ⟨k, -, rfl⟩ := step_cases s t h
  · exact inv_of_core_eq resetMeetsInvariant rfl
  · exact inv_onLoadIdle hs hidle image
  · exact inv_of_cycleAnswers hs (cycleAnswers hcycle h)
  · exact inv_onTick hs
  · exact inv_of_core_eq hs (core_takeEvent s)
  · exact inv_of_core_eq hs (core_takeEvent s)

end Sys2Proof.Proofs
end
